-- ==== Sys2Proof/Word.lean ====
section
/-! DEFINITION. The word types of the block (00_scope.md R9, R10): bit 0 is the least significant bit. -/

namespace Sys2Proof

/-- A row, a slot's raw value, an operand field, a bus byte: u8 or s8 by the operation that reads it (R10). -/
abbrev Byte := BitVec 8

/-- A host command word, `CMD_W = 32` (R9, R82). -/
abbrev Word := BitVec 32

/-- A matrix-bus word, address above data (20_memory.md R66). -/
abbrev Word16 := BitVec 16

end Sys2Proof
end

