-- ==== Sys2Proof/Syntax.lean ====
section
/-! DEFINITION. The commands of the block: one constructor for each row of the opcode map (30_encoding.md R85). -/

namespace Sys2Proof

/-- A host command with its operand fields, each the byte field of the format (R82) that carries it.
Which bits of a field the format lets vary is WellFormed.lean; how a field is read (signed, unsigned,
`A[2:0]`, `C[0]`) is Machine/Operands.lean (R83). -/
inductive Instr where
  /-- FRAME_CLEAR, format N (R111). -/
  | frameClear
  /-- FRAME_GET row, col: format RC (R112). -/
  | frameGet (row col : Byte)
  /-- FRAME_SET row, col, v: format RCV, the checked point write (R113). -/
  | frameSet (row col v : Byte)
  /-- FRAME_SET_RAW row, col, v: format RCV, the raw-coordinate write (R114). -/
  | frameSetRaw (row col v : Byte)
  /-- FRAME_ROW_READ row: format R3 (R115). -/
  | frameRowRead (row : Byte)
  /-- FRAME_ROW_WRITE row, data: format R3D (R116). -/
  | frameRowWrite (row data : Byte)
  /-- LAYER_CLEAR, format N (R143). -/
  | layerClear
  /-- LAYER_GET index: format I (R144). -/
  | layerGet (index : Byte)
  /-- LAYER_SET index, raw: format IV (R145). -/
  | layerSet (index raw : Byte)
  /-- MB_INIT, format N (R163). -/
  | mbInit
  /-- MB_RENDER, format N (R164). -/
  | mbRender
  /-- MB_BRIGHTNESS percent: format P (R166). -/
  | mbBrightness (percent : Byte)
  /-- MB_XFER addr, data: format AD (R162). -/
  | mbXfer (addr data : Byte)
  /-- SEG_RENDER, format N (R199). -/
  | segRender
  /-- SEG_BRIGHTNESS percent, en: format PE (R202). -/
  | segBrightness (percent en : Byte)
  /-- SEG_CONFIG sep: format S (R203). -/
  | segConfig (sep : Byte)
  /-- SEG_START, format N (R196). -/
  | segStart
  /-- SEG_STOP, format N (R197). -/
  | segStop
  /-- SEG_WRITE byte: format BY (R198). -/
  | segWrite (byte : Byte)
  /-- STATUS_READ, format N (R230). -/
  | statusRead
  /-- STATUS_CLEAR, format N (R231). -/
  | statusClear
deriving DecidableEq, Repr

end Sys2Proof
end

