-- ==== Sys2Proof/WellFormed.lean ====
section
/-! DEFINITION. Which operand fields a command's format admits: the must-be-zero bits of 30_encoding.md R82.
An instruction is well formed exactly when its word lies in its row of the opcode map (R84, R85). -/

namespace Sys2Proof

/-- `{00000, row[2:0]}`: the field of the formats R3 and R3D. -/
abbrev isRowField (f : Byte) : Bool := f.toNat < 8

/-- `{0000000, b}`: the field that carries `v`, `en` or `sep` (formats RCV, PE and S). -/
abbrev isBitField (f : Byte) : Bool := f.toNat < 2

/-- Every constant bit of the format holds its constant (R82, R84). -/
def Instr.wellFormed : Instr → Bool
  | .frameClear => true
  | .frameGet _ _ => true
  | .frameSet _ _ v => isBitField v
  | .frameSetRaw _ _ v => isBitField v
  | .frameRowRead row => isRowField row
  | .frameRowWrite row _ => isRowField row
  | .layerClear => true
  | .layerGet _ => true
  | .layerSet _ _ => true
  | .mbInit => true
  | .mbRender => true
  | .mbBrightness _ => true
  | .mbXfer _ _ => true
  | .segRender => true
  | .segBrightness _ en => isBitField en
  | .segConfig sep => isBitField sep
  | .segStart => true
  | .segStop => true
  | .segWrite _ => true
  | .statusRead => true
  | .statusClear => true

end Sys2Proof
end

