-- ==== Sys2Proof/Decode.lean ====
section
/-! DEFINITION. The command word: its fields, the opcode map, the decoder and the encoder (30_encoding.md R82 to R87),
and the byte port that may carry it (20_memory.md R69). -/

namespace Sys2Proof

/-- Why a word names no command; both kinds raise ILLEGAL_COMMAND (R84, R86). -/
inductive Rejection where
  /-- The OP value is not in the opcode map (R86). -/
  | reservedOp (op : Byte)
  /-- The OP value is known, and a must-be-zero bit of its format is set (R84). -/
  | mustBeZero (op : Byte)
  /-- A byte port delivered a number of bytes other than four, so there is no command word (R69, R87; log entry 14). -/
  | portLength (n : Nat)
deriving DecidableEq, Repr

/-- `OP = cmd[31:24]` (R82). -/
def opField (w : Word) : Byte := w.extractLsb' 24 8

/-- `A = cmd[23:16]` (R82). -/
def aField (w : Word) : Byte := w.extractLsb' 16 8

/-- `B = cmd[15:8]` (R82). -/
def bField (w : Word) : Byte := w.extractLsb' 8 8

/-- `C = cmd[7:0]` (R82). -/
def cField (w : Word) : Byte := w.extractLsb' 0 8

/-- The word of four byte fields, OP most significant (R69, R82). -/
def wordOf (op a b c : Byte) : Word := op ++ a ++ b ++ c

/-- The command of a word with a known OP, if the constant bits of its format are all zero (R84). -/
def whenZero (constantsHold : Bool) (op : Byte) (i : Instr) : Except Rejection Instr :=
  if constantsHold then .ok i else .error (.mustBeZero op)

/-- The command a word names, with the format of each row read as R82 gives it; total, and a word of no row is
rejected by name (R84 to R86). -/
def decode (w : Word) : Except Rejection Instr :=
  let op := opField w
  let a := aField w
  let b := bField w
  let c := cField w
  let formatN := a == 0 && b == 0 && c == 0
  match op.toNat with
  | 0x01 => whenZero formatN op .frameClear
  | 0x02 => whenZero (c == 0) op (.frameGet a b)
  | 0x03 => whenZero (isBitField c) op (.frameSet a b c)
  | 0x04 => whenZero (isBitField c) op (.frameSetRaw a b c)
  | 0x05 => whenZero (isRowField a && b == 0 && c == 0) op (.frameRowRead a)
  | 0x06 => whenZero (isRowField a && c == 0) op (.frameRowWrite a b)
  | 0x11 => whenZero formatN op .layerClear
  | 0x12 => whenZero (b == 0 && c == 0) op (.layerGet a)
  | 0x13 => whenZero (c == 0) op (.layerSet a b)
  | 0x21 => whenZero formatN op .mbInit
  | 0x22 => whenZero formatN op .mbRender
  | 0x23 => whenZero (b == 0 && c == 0) op (.mbBrightness a)
  | 0x24 => whenZero (c == 0) op (.mbXfer a b)
  | 0x31 => whenZero formatN op .segRender
  | 0x32 => whenZero (isBitField b && c == 0) op (.segBrightness a b)
  | 0x33 => whenZero (isBitField a && b == 0 && c == 0) op (.segConfig a)
  | 0x34 => whenZero formatN op .segStart
  | 0x35 => whenZero formatN op .segStop
  | 0x36 => whenZero (b == 0 && c == 0) op (.segWrite a)
  | 0x41 => whenZero formatN op .statusRead
  | 0x42 => whenZero formatN op .statusClear
  | _ => .error (.reservedOp op)

/-- The word of a command: its OP value and its operand bytes in the places of its format (R82, R85). -/
def encode : Instr → Word
  | .frameClear => wordOf 0x01 0 0 0
  | .frameGet row col => wordOf 0x02 row col 0
  | .frameSet row col v => wordOf 0x03 row col v
  | .frameSetRaw row col v => wordOf 0x04 row col v
  | .frameRowRead row => wordOf 0x05 row 0 0
  | .frameRowWrite row data => wordOf 0x06 row data 0
  | .layerClear => wordOf 0x11 0 0 0
  | .layerGet index => wordOf 0x12 index 0 0
  | .layerSet index raw => wordOf 0x13 index raw 0
  | .mbInit => wordOf 0x21 0 0 0
  | .mbRender => wordOf 0x22 0 0 0
  | .mbBrightness percent => wordOf 0x23 percent 0 0
  | .mbXfer addr data => wordOf 0x24 addr data 0
  | .segRender => wordOf 0x31 0 0 0
  | .segBrightness percent en => wordOf 0x32 percent en 0
  | .segConfig sep => wordOf 0x33 sep 0 0
  | .segStart => wordOf 0x34 0 0 0
  | .segStop => wordOf 0x35 0 0 0
  | .segWrite byte => wordOf 0x36 byte 0 0
  | .statusRead => wordOf 0x41 0 0 0
  | .statusClear => wordOf 0x42 0 0 0

/-- The bytes a byte port carries for a word, first byte first: OP, A, B, C (20_memory.md R69). -/
def portBytes (w : Word) : List Byte := [opField w, aField w, bField w, cField w]

/-- The command the bytes of a byte port name: four bytes, OP first (R69), make one word (R87). -/
def decodePort : List Byte → Except Rejection Instr
  | [op, a, b, c] => decode (wordOf op a b c)
  | bytes => .error (.portLength bytes.length)

/-- The command of an opcode-table word of `nbits` bits; every bit above them is 0, and the command word has 32. -/
def decodeTableWord (nbits w : Nat) : Option Instr :=
  match decode (BitVec.ofNat 32 (w % 2 ^ nbits)) with
  | .ok i => some i
  | .error _ => none

/-- One row of the opcode map: its match and its mask (R85). -/
structure OpRow where
  pattern : Word
  mask : Word
deriving DecidableEq, Repr

/-- The row's test of R84: `(cmd & mask) == match`. -/
def OpRow.holds (r : OpRow) (w : Word) : Bool := w &&& r.mask == r.pattern

/-- The row of the opcode map that a command stands in (R85). -/
def Instr.row : Instr → OpRow
  | .frameClear => ⟨0x01000000, 0xFFFFFFFF⟩
  | .frameGet _ _ => ⟨0x02000000, 0xFF0000FF⟩
  | .frameSet _ _ _ => ⟨0x03000000, 0xFF0000FE⟩
  | .frameSetRaw _ _ _ => ⟨0x04000000, 0xFF0000FE⟩
  | .frameRowRead _ => ⟨0x05000000, 0xFFF8FFFF⟩
  | .frameRowWrite _ _ => ⟨0x06000000, 0xFFF800FF⟩
  | .layerClear => ⟨0x11000000, 0xFFFFFFFF⟩
  | .layerGet _ => ⟨0x12000000, 0xFF00FFFF⟩
  | .layerSet _ _ => ⟨0x13000000, 0xFF0000FF⟩
  | .mbInit => ⟨0x21000000, 0xFFFFFFFF⟩
  | .mbRender => ⟨0x22000000, 0xFFFFFFFF⟩
  | .mbBrightness _ => ⟨0x23000000, 0xFF00FFFF⟩
  | .mbXfer _ _ => ⟨0x24000000, 0xFF0000FF⟩
  | .segRender => ⟨0x31000000, 0xFFFFFFFF⟩
  | .segBrightness _ _ => ⟨0x32000000, 0xFF00FEFF⟩
  | .segConfig _ => ⟨0x33000000, 0xFFFEFFFF⟩
  | .segStart => ⟨0x34000000, 0xFFFFFFFF⟩
  | .segStop => ⟨0x35000000, 0xFFFFFFFF⟩
  | .segWrite _ => ⟨0x36000000, 0xFF00FFFF⟩
  | .statusRead => ⟨0x41000000, 0xFFFFFFFF⟩
  | .statusClear => ⟨0x42000000, 0xFFFFFFFF⟩

/-- The opcode map, in the table's order (R85). -/
def opcodeMap : List OpRow :=
  [Instr.frameClear.row, (Instr.frameGet 0 0).row, (Instr.frameSet 0 0 0).row, (Instr.frameSetRaw 0 0 0).row,
   (Instr.frameRowRead 0).row, (Instr.frameRowWrite 0 0).row]
  ++ [Instr.layerClear.row, (Instr.layerGet 0).row, (Instr.layerSet 0 0).row]
  ++ [Instr.mbInit.row, Instr.mbRender.row, (Instr.mbBrightness 0).row, (Instr.mbXfer 0 0).row]
  ++ [Instr.segRender.row, (Instr.segBrightness 0 0).row, (Instr.segConfig 0).row, Instr.segStart.row, Instr.segStop.row,
      (Instr.segWrite 0).row]
  ++ [Instr.statusRead.row, Instr.statusClear.row]

end Sys2Proof
end

