-- ==== Sys2Proof/Config.lean ====
section
/-! DEFINITION. The parameters of the block (00_scope.md R9) and the free values: what the spec leaves OPEN or to the
environment. Nothing in this file gives an OPEN value a number. -/

namespace Sys2Proof

/-- The entries of DIGIT_TABLE that the source does not fix (41_layer.md R141, D12), each without its bit 7,
which is 0 in every entry. Entries 0 and 8 and the blank code are constants of the machine. -/
structure DigitTable where
  d1 : BitVec 7
  d2 : BitVec 7
  d3 : BitVec 7
  d4 : BitVec 7
  d5 : BitVec 7
  d6 : BitVec 7
  d7 : BitVec 7
  d9 : BitVec 7
deriving DecidableEq, Repr

/-- The parameters of R9 that the spec leaves to the implementation. No command changes them (10_state.md R41). -/
structure Config where
  /-- DIGIT_TABLE, the entries the source does not fix (D12). -/
  digits : DigitTable
  /-- MB_REG_DECODE (D14). -/
  mbRegDecode : Byte
  /-- MB_REG_INTENSITY (D14). -/
  mbRegIntensity : Byte
  /-- MB_REG_SCANLIMIT (D14). -/
  mbRegScanLimit : Byte
  /-- MB_REG_SHUTDOWN (D14). -/
  mbRegShutdown : Byte
  /-- MB_REG_DISPTEST (D14). -/
  mbRegDispTest : Byte
  /-- MB_INIT_DECODE_OFF (D14). -/
  mbInitDecodeOff : Byte
  /-- MB_INIT_DISPTEST_OFF (D14). -/
  mbInitDispTestOff : Byte
  /-- MB_INIT_SCAN_ALL (D14). -/
  mbInitScanAll : Byte
  /-- MB_INIT_RUN (D14). -/
  mbInitRun : Byte
  /-- MB_DEFAULT_INTENSITY, OPEN (D15). -/
  mbDefaultIntensity : BitVec 4
  /-- MB_MIN_PHASE, OPEN, physical only: no rule reads it (42_matrix_bus.md R168). -/
  mbMinPhase : Nat
  /-- SB_ENABLE_BIT, the place of the enable bit in the display-control byte (D21). -/
  sbEnableBit : Fin 8
  /-- SB_BIT_DELAY, OPEN: the length of one SB_DELAY event; no rule of the step reads it (70_reset_and_hazards.md R281). -/
  sbBitDelay : Nat
deriving DecidableEq, Repr

/-- The free value of the n-th sense since power-on, true for a high line: "a free draw per sense, any bit,
under no law" (00_scope.md R12, D39; log entry 8). It has no body. -/
opaque Config.senseDraw : Nat → Bool

/-- The free value of the OPEN parameter MB_DEFAULT_INTENSITY (D15; log entry 7). It has no body. -/
opaque Config.openDefaultIntensity : BitVec 4

/-- The free value of the OPEN parameter MB_MIN_PHASE (D25; log entry 7). It has no body. -/
opaque Config.openMinPhase : Nat

/-- The free value of the OPEN parameter SB_BIT_DELAY (D24; log entry 7). It has no body. -/
opaque Config.openBitDelay : Nat

end Sys2Proof
end

