-- ==== Sys2Proof/Machine/Params.lean ====
section
/-! DEFINITION. The values of the parameters (00_scope.md R9): the constants the spec fixes, and the configuration of a block
whose parameters stand at the spec's defaults, its OPEN ones free. -/

namespace Sys2Proof.Machine

/-- DIGIT_TABLE[0], fixed by the source (41_layer.md R141). -/
def digitZero : Byte := 0x3F

/-- DIGIT_TABLE[8], fixed by the source (R141). -/
def digitEight : Byte := 0x7F

/-- BLANK_CODE (R9, R140). -/
def blankCode : Byte := 0x00

/-- The blank sentinel, raw value -1 (10_state.md R24, 41_layer.md R143). -/
def blankRaw : Byte := 0xFF

/-- DP_BIT, the decimal point's bit (R9, 43_segment_bus.md R200). -/
def dpBit : Nat := 7

/-- MB_ROW_BASE: row r goes to register address r + 1 (R9, 20_memory.md R64). -/
def mbRowBase : Byte := 1

/-- MB_INT_MIN (R9, 42_matrix_bus.md R165). -/
def mbIntMin : Nat := 1

/-- MB_INT_MAX (R9, R165). -/
def mbIntMax : Nat := 15

/-- SB_CMD_DATA, "auto-increment write mode" (R9, 20_memory.md R65). -/
def sbCmdData : Byte := 0x40

/-- SB_CMD_ADDR, "set digit address" (R9, R65). -/
def sbCmdAddr : Byte := 0xC0

/-- SB_CMD_DISPLAY (R9, R65). -/
def sbCmdDisplay : Byte := 0x80

/-- SB_BRIGHT_MAX (R9, 43_segment_bus.md R201). -/
def sbBrightMax : Nat := 7

/-- The greatest percent a brightness command takes (42_matrix_bus.md R166, 43_segment_bus.md R202). -/
def percentMax : Nat := 100

/-- The default entries 1..7 and 9 of DIGIT_TABLE (R141). PRESUMED: the spec's general knowledge (log entry 5). -/
def defaultDigits : DigitTable :=
  { d1 := 0x06, d2 := 0x5B, d3 := 0x4F, d4 := 0x66, d5 := 0x6D, d6 := 0x7D, d7 := 0x07, d9 := 0x6F }

/-- The configuration of R9: defaults where the spec gives them (PRESUMED, log entries 4 to 6), free values where it
says OPEN (log entry 7). -/
def defaultConfig : Config :=
  { digits := defaultDigits
    mbRegDecode := 0x09, mbRegIntensity := 0x0A, mbRegScanLimit := 0x0B, mbRegShutdown := 0x0C, mbRegDispTest := 0x0F
    mbInitDecodeOff := 0x00, mbInitDispTestOff := 0x00, mbInitScanAll := 0x07, mbInitRun := 0x01
    mbDefaultIntensity := Config.openDefaultIntensity
    mbMinPhase := Config.openMinPhase
    sbEnableBit := 3
    sbBitDelay := Config.openBitDelay }

end Sys2Proof.Machine
end

