-- ==== Sys2Proof/Machine/State.lean ====
section
/-! DEFINITION. The state of the block as plain data (10_state.md), the reasons a step can stop, and the state after reset. -/

namespace Sys2Proof.Machine

/-- The two lines of the segment bus (00_scope.md R12). -/
inductive SbLine where
  | scl
  | sda
deriving DecidableEq, Repr

/-- The three lines of the matrix bus (R12). -/
inductive MbLine where
  | din
  | clk
  | load
deriving DecidableEq, Repr

/-- A bus event (10_state.md R38). A level is true for 1. -/
inductive Event where
  /-- `MB_DIN(v)`. -/
  | mbDin (v : Bool)
  /-- `MB_CLK(v)`. -/
  | mbClk (v : Bool)
  /-- `MB_LOAD(v)`. -/
  | mbLoad (v : Bool)
  /-- `SB_DRIVE(L)`. -/
  | sbDrive (line : SbLine)
  /-- `SB_RELEASE(L)`. -/
  | sbRelease (line : SbLine)
  /-- `SB_SENSE(v)`, v the sensed level. -/
  | sbSense (v : Bool)
  /-- `SB_DELAY`. -/
  | sbDelay
deriving DecidableEq, Repr

/-- The matrix-bus line state, true for 1 (10_state.md R36). -/
structure MbLines where
  din : Bool
  clk : Bool
  load : Bool
deriving DecidableEq, Repr

/-- The segment-bus output enables: true drives the line low, false releases it (10_state.md R37). -/
structure SbLines where
  sclOe : Bool
  sdaOe : Bool
deriving DecidableEq, Repr

/-- What the host can send between commands: a command word (30_encoding.md R80) or the reset input
(70_reset_and_hazards.md R270). -/
inductive HostInput where
  | command (w : Word)
  | reset
deriving DecidableEq, Repr

/-- The causes a command can raise (60_exceptions.md R241). A fault of the spec is recorded in `status` and the block goes
on (R245): it is a next state of the model, never an outcome `fault`. -/
inductive FaultCause where
  /-- ILLEGAL_COMMAND: no row of the opcode map matches the word. -/
  | illegalCommand
  /-- RAW_ROW_RANGE: FRAME_SET_RAW with a row outside 0..7. -/
  | rawRowRange
  /-- DIGIT_RANGE: LAYER_GET or SEG_RENDER reads a raw value above 9. -/
  | digitRange
  /-- PERCENT_RANGE: MB_BRIGHTNESS or SEG_BRIGHTNESS with a percent above 100. -/
  | percentRange
deriving DecidableEq, Repr

/-- The reasons a step stops the machine. -/
inductive Fault where
  /-- Raised by `step` alone, when the host has sent no input: "Anything the host does not do (it never issues a command)
  gives no step" (70_reset_and_hazards.md R284). Safe: nothing happens in the block either. No instruction raises it. -/
  | awaitingCommand
deriving DecidableEq, Repr

/-- The reasons an instruction has no meaning in the model. -/
inductive Refusal where
  /-- An instruction without a meaning yet, refused in `exec`'s arm under its mnemonic. Safe: nothing follows from it.
  No arm of this model refuses. -/
  | notModelled (mnemonic : String)
deriving DecidableEq, Repr

/-- The state of the block (10_state.md), the parameters it was built with (00_scope.md R9), and what the world outside
has laid down for it: the host's inputs and the segment target's levels. -/
structure State where
  /-- The parameters; no step changes them (R41; log entry 3). -/
  cfg : Config
  /-- The Frame, 8 row registers (R20). -/
  frame : Vector Byte 8
  /-- The Layer, 4 slots of raw values (R23). -/
  layer : Vector Byte 4
  /-- The value the last command returned (R27). -/
  result : Byte
  /-- The status register, its fields in Flags.lean (R28 to R34). -/
  status : Byte
  /-- The segment-bus control register, bit 0 SEP (R35). -/
  segctl : Byte
  /-- The matrix-bus lines (R36). -/
  mb : MbLines
  /-- The segment-bus output enables (R37). -/
  sb : SbLines
  /-- The bus events since reset, oldest first (R38). -/
  trace : List Event
  /-- The model's own: the host's inputs not yet taken, oldest first (30_encoding.md R80; log entry 1). -/
  inbox : List HostInput
  /-- The model's own: the levels of the coming senses, oldest first, as far as the environment has laid them down
  (00_scope.md R12; log entry 8). -/
  draws : List Bool
  /-- The model's own: how many senses have happened, the index of the free value (log entry 8). -/
  drawCount : Nat
deriving DecidableEq, Repr

/-- The state right after power-on reset (70_reset_and_hazards.md R271): nothing sent yet by the host, nothing laid
down for the senses (log entries 1 and 8), the parameters at `defaultConfig`. -/
def State.reset : State :=
  { cfg := defaultConfig
    frame := Vector.replicate 8 0x00
    layer := Vector.replicate 4 blankRaw
    result := 0x00
    status := 0x00
    segctl := 0x00
    mb := { din := false, clk := false, load := true }
    sb := { sclOe := false, sdaOe := false }
    trace := []
    inbox := []
    draws := []
    drawCount := 0 }

end Sys2Proof.Machine
end

