-- ==== Sys2Proof/Machine/Operands.lean ====
section
/-! DEFINITION. How operand fields and bit positions are read (00_scope.md R10, R13; 20_memory.md R61, R63; 30_encoding.md R83). -/

namespace Sys2Proof.Machine

/-- `InRange(x) = (0 <= x) and (x <= 7)`, x compared as an s8 value (40_frame.md R110, D43). -/
def inRange (x : Byte) : Bool := 0 ≤ x.toInt && x.toInt ≤ 7

/-- The Frame coordinate an s8 operand names, none when it is out of range (R110). -/
def coord (x : Byte) : Option (Fin 8) :=
  if inRange x then some ⟨x.toNat % 8, Nat.mod_lt _ (by decide)⟩ else none

/-- `0 <= i <= 3`, i compared as an s8 value (20_memory.md R63). -/
def inSlots (i : Byte) : Bool := 0 ≤ i.toInt && i.toInt ≤ 3

/-- The Layer slot an s8 operand names, none when it selects no slot (R63). -/
def slotIndex (i : Byte) : Option (Fin 4) :=
  if inSlots i then some ⟨i.toNat % 4, Nat.mod_lt _ (by decide)⟩ else none

/-- `A[2:0]`, unsigned 0..7 (R83). -/
def rowIndex (a : Byte) : Fin 8 := ⟨a.toNat % 8, Nat.mod_lt _ (by decide)⟩

/-- `f[0]`, the single-bit operand of a field (R83). -/
def bitOf (f : Byte) : Bool := f.getLsbD 0

/-- A byte with bit i replaced. -/
def setBit (b : Byte) (i : Nat) (v : Bool) : Byte :=
  if v then b ||| (1#8 <<< i) else b &&& ~~~(1#8 <<< i)

/-- The bit of a row that holds column c: bit `7 - c` (20_memory.md R61). -/
def columnBit (c : Fin 8) : Nat := 7 - c.val

/-- `zext_8` of one bit (R10). -/
def zextBit (v : Bool) : Byte := if v then 1 else 0

/-- `rev8(b)[i] = b[7 - i]` (R13). -/
def rev8 (b : Byte) : Byte :=
  [0, 1, 2, 3, 4, 5, 6, 7].foldl (fun acc i => setBit acc i (b.getLsbD (7 - i))) 0

/-- The Frame rows in ascending order, the order of every loop over rows (D18). -/
def rowOrder : List (Fin 8) := [0, 1, 2, 3, 4, 5, 6, 7]

/-- `MbIntensity(p) = MB_INT_MIN + floor(p * (MB_INT_MAX - MB_INT_MIN) / 100)` (42_matrix_bus.md R165). -/
def mbIntensity (p : Byte) : Byte :=
  BitVec.ofNat 8 (mbIntMin + p.toNat * (mbIntMax - mbIntMin) / 100)

/-- `SbLevel(p) = floor(SB_BRIGHT_MAX * p / 100)` (43_segment_bus.md R201). -/
def sbLevel (p : Byte) : Byte := BitVec.ofNat 8 (sbBrightMax * p.toNat / 100)

/-- The display-control command byte `SB_CMD_DISPLAY + ((en << SB_ENABLE_BIT) | SbLevel(p))` (R201, R202). -/
def displayControl (cfg : Config) (p : Byte) (en : Bool) : Byte :=
  sbCmdDisplay + ((zextBit en <<< cfg.sbEnableBit.val) ||| sbLevel p)

end Sys2Proof.Machine
end

