-- ==== Sys2Proof/Machine/Flags.lean ====
section
/-! DEFINITION. The fields of `status` and `segctl`, and every rule that writes one (10_state.md R28 to R35). -/

namespace Sys2Proof.Machine

/-- The bit of `status.ACK_LAST` (R29). -/
def ackLastBit : Nat := 0

/-- The bit of `status.NACK_SEEN` (R30). -/
def nackSeenBit : Nat := 1

/-- The bit of `status.OOR_SEEN` (R31). -/
def oorSeenBit : Nat := 2

/-- The bit of `status.FAULT` (R32). -/
def faultBit : Nat := 3

/-- `status.ACK_LAST` (R29). -/
def ackLast (st : Byte) : Bool := st.getLsbD ackLastBit

/-- `status.NACK_SEEN` (R30). -/
def nackSeen (st : Byte) : Bool := st.getLsbD nackSeenBit

/-- `status.OOR_SEEN` (R31). -/
def oorSeen (st : Byte) : Bool := st.getLsbD oorSeenBit

/-- `status.FAULT` (R32). -/
def faultSeen (st : Byte) : Bool := st.getLsbD faultBit

/-- `status.FAULT_CAUSE`, bits 6:4 (R33). -/
def causeField (st : Byte) : BitVec 3 := st.extractLsb' 4 3

/-- The code of a cause (60_exceptions.md R241). -/
def FaultCause.code : FaultCause → BitVec 3
  | .illegalCommand => 1
  | .rawRowRange => 2
  | .digitRange => 3
  | .percentRange => 4

/-- `status.FAULT_CAUSE <- code`, the other bits kept. -/
def setCause (st : Byte) (code : BitVec 3) : Byte := (st &&& 0x8F) ||| (code.setWidth 8 <<< 4)

/-- The status writes of `raise Fault(cause)`: the first cause is kept, FAULT is set (R242). -/
def recordFault (c : FaultCause) (st : Byte) : Byte :=
  setBit (if faultSeen st then st else setCause st c.code) faultBit true

/-- `status.OOR_SEEN <- 1` (R31). -/
def recordOor (st : Byte) : Byte := setBit st oorSeenBit true

/-- `AckStatus(lvl)`, lvl true for a high line: ACK_LAST tells the level, a high level sets NACK_SEEN
(43_segment_bus.md R195). -/
def recordAck (lvl : Bool) (st : Byte) : Byte :=
  let st' := setBit st ackLastBit (!lvl)
  if lvl then setBit st' nackSeenBit true else st'

/-- What STATUS_CLEAR writes: NACK_SEEN and OOR_SEEN to 0 (44_status.md R231). -/
def clearSticky (st : Byte) : Byte := setBit (setBit st nackSeenBit false) oorSeenBit false

/-- `{0, FAULT_CAUSE[2:0], FAULT, OOR_SEEN, NACK_SEEN, ACK_LAST}`: what STATUS_READ returns (R230). Bit 7 reads 0 (R34). -/
def statusByte (st : Byte) : Byte :=
  0#1 ++ causeField st ++ BitVec.ofBool (faultSeen st) ++ BitVec.ofBool (oorSeen st)
    ++ BitVec.ofBool (nackSeen st) ++ BitVec.ofBool (ackLast st)

/-- The bit of `segctl.SEP` (R35). -/
def sepBit : Nat := 0

/-- `segctl.SEP` (R35). -/
def separator (ctl : Byte) : Bool := ctl.getLsbD sepBit

/-- `segctl.SEP <- sep`, the reserved bits kept (R203). -/
def setSeparator (ctl : Byte) (sep : Bool) : Byte := setBit ctl sepBit sep

end Sys2Proof.Machine
end

