-- ==== Sys2Proof/Machine/Ops.lean ====
section
/-! DEFINITION. The named operations over the state: Frame and Layer accesses, bus primitives, the sense draw, the end of
a command, taking a fault, and the host's inputs. -/

namespace Sys2Proof.Machine

/-- What a step or a command answers. -/
abbrev Answer := Host.Outcome State Fault Refusal

/-! ## The end of a command, and faults -/

/-- A command completes: `result` takes its return value (10_state.md R27). -/
def finish (value : Byte) (s : State) : Answer := .next { s with result := value }

/-- `raise Fault(cause)`: the status records it, `result` is 0, and the command ends (60_exceptions.md R242). -/
def raiseFault (c : FaultCause) (s : State) : State :=
  { s with status := recordFault c s.status, result := 0x00 }

/-- A command ends in a fault; nothing saves a return point and there is no return (R240, R245): the block goes on. -/
def raise (c : FaultCause) (s : State) : Answer := .next (raiseFault c s)

/-- `status.OOR_SEEN <- 1` (10_state.md R31). -/
def setOor (s : State) : State := { s with status := recordOor s.status }

/-! ## The Frame and the Layer -/

/-- `frame[r]`, which is `MemRead(r, 1)` (00_scope.md R11). -/
def frameRow (s : State) (r : Fin 8) : Byte := s.frame[r]

/-- `frame[r] <- v`, which is `MemWrite(r, 1, v)` (R11). -/
def writeRow (r : Fin 8) (v : Byte) (s : State) : State := { s with frame := s.frame.set r v }

/-- `pixel(r, c) = frame[r][7 - c]` (20_memory.md R61). -/
def pixel (s : State) (r c : Fin 8) : Bool := (frameRow s r).getLsbD (columnBit c)

/-- `frame[r][7 - c] <- v` (R61). -/
def writePixel (r c : Fin 8) (v : Bool) (s : State) : State :=
  writeRow r (setBit (frameRow s r) (columnBit c) v) s

/-- `layer[i]` (R11). -/
def slot (s : State) (i : Fin 4) : Byte := s.layer[i]

/-- `layer[i] <- v` (R11). -/
def writeSlot (i : Fin 4) (v : Byte) (s : State) : State := { s with layer := s.layer.set i v }

/-- DIGIT_TABLE[0..9] (41_layer.md R141): bit 7 of every entry is 0. -/
def digitTable (t : DigitTable) : Vector Byte 10 :=
  #v[digitZero, t.d1.setWidth 8, t.d2.setWidth 8, t.d3.setWidth 8, t.d4.setWidth 8, t.d5.setWidth 8, t.d6.setWidth 8,
     t.d7.setWidth 8, digitEight, t.d9.setWidth 8]

/-- `Encode(raw)`: a negative raw value is blank, one above 9 raises DIGIT_RANGE (R140). -/
def encodeDigit (t : DigitTable) (raw : Byte) : Except FaultCause Byte :=
  if raw.toInt < 0 then .ok blankCode
  else if h : raw.toNat < 10 then .ok (digitTable t)[raw.toNat]
  else .error .digitRange

/-- `LayerRead(i)`, the digit multiplexer: the encoded byte and the state after the read, or the fault it raises (R142). -/
def layerRead (index : Byte) (s : State) : Except FaultCause (Byte × State) :=
  match slotIndex index with
  | none => .ok (blankCode, setOor s)
  | some i =>
    match encodeDigit s.cfg.digits (slot s i) with
    | .ok code => .ok (code, s)
    | .error c => .error c

/-! ## Bus primitives (00_scope.md R12) -/

/-- `emit(e)`. -/
def emit (e : Event) (s : State) : State := { s with trace := s.trace ++ [e] }

/-- The line state after `mb_set(L, v)`. -/
def MbLines.write (l : MbLines) (line : MbLine) (v : Bool) : MbLines :=
  match line with
  | .din => { l with din := v }
  | .clk => { l with clk := v }
  | .load => { l with load := v }

/-- The event of `mb_set(L, v)`. -/
def mbEvent (line : MbLine) (v : Bool) : Event :=
  match line with
  | .din => .mbDin v
  | .clk => .mbClk v
  | .load => .mbLoad v

/-- `mb_set(L, v)`: an event even when the line has that level already (D45). -/
def mbSet (line : MbLine) (v : Bool) (s : State) : State :=
  emit (mbEvent line v) { s with mb := s.mb.write line v }

/-- The output enables after line L is driven (true) or released (false). -/
def SbLines.write (l : SbLines) (line : SbLine) (oe : Bool) : SbLines :=
  match line with
  | .scl => { l with sclOe := oe }
  | .sda => { l with sdaOe := oe }

/-- `sb_drive_low(L)`. -/
def sbDriveLow (line : SbLine) (s : State) : State :=
  emit (.sbDrive line) { s with sb := s.sb.write line true }

/-- `sb_release(L)`. -/
def sbRelease (line : SbLine) (s : State) : State :=
  emit (.sbRelease line) { s with sb := s.sb.write line false }

/-- `sb_delay()`. -/
def sbDelay (s : State) : State := emit .sbDelay s

/-- The level the target gives the next sense, true for high: what the environment has laid down, else the free value
(R12 `draw()`; log entry 8). -/
def nextDraw (s : State) : Bool :=
  match s.draws with
  | d :: _ => d
  | [] => Config.senseDraw s.drawCount

/-- The state after one draw. -/
def takeDraw (s : State) : State := { s with draws := s.draws.tail, drawCount := s.drawCount + 1 }

/-- A wire's level: low if the block drives it or the target pulls it low, else high (43_segment_bus.md R190). -/
def wireLevel (blockDrives targetReleases : Bool) : Bool := !blockDrives && targetReleases

/-- `sb_sense()`: the wired-AND of the block's SDA and the draw (R12). -/
def sbSense (s : State) : Bool × State :=
  let lvl := wireLevel s.sb.sdaOe (nextDraw s)
  (lvl, emit (.sbSense lvl) (takeDraw s))

/-! ## The host's inputs -/

/-- The host's oldest input and the state in which it has been taken (30_encoding.md R80, R81: one at a time). -/
def takeInput (s : State) : Option (HostInput × State) :=
  match s.inbox with
  | [] => none
  | input :: rest => some (input, { s with inbox := rest })

/-- The reset input: every element of the block at its reset value (70_reset_and_hazards.md R270), no event (R272). What
stands outside the block stays: its parameters, the host's further inputs, the levels to come (log entry 2). -/
def resetBlock (s : State) : State :=
  { State.reset with cfg := s.cfg, inbox := s.inbox, draws := s.draws, drawCount := s.drawCount }

end Sys2Proof.Machine
end

