-- ==== Sys2Proof/Machine/Frame.lean ====
section
/-! DEFINITION. The Frame commands (40_frame.md). None emits a bus event. -/

namespace Sys2Proof.Machine

/-- FRAME_CLEAR (R111): every row 0. -/
def execFrameClear (s : State) : Answer := finish 0x00 { s with frame := Vector.replicate 8 0x00 }

/-- FRAME_GET row, col (R112): the pixel, or 0 with OOR_SEEN. -/
def execFrameGet (row col : Byte) (s : State) : Answer :=
  match coord row, coord col with
  | some r, some c => finish (zextBit (pixel s r c)) s
  | _, _ => finish 0x00 (setOor s)

/-- FRAME_SET row, col, v (R113): the checked point write. -/
def execFrameSet (row col v : Byte) (s : State) : Answer :=
  match coord row, coord col with
  | some r, some c => finish 0x00 (writePixel r c (bitOf v) s)
  | _, _ => finish 0x00 (setOor s)

/-- FRAME_SET_RAW row, col, v (R114): a row out of range faults before the column is looked at (60_exceptions.md R244). -/
def execFrameSetRaw (row col v : Byte) (s : State) : Answer :=
  match coord row with
  | none => raise .rawRowRange s
  | some r =>
    match coord col with
    | some c => finish 0x00 (writePixel r c (bitOf v) s)
    | none => finish 0x00 (setOor s)

/-- FRAME_ROW_READ row (R115): the row as stored. -/
def execFrameRowRead (row : Byte) (s : State) : Answer := finish (frameRow s (rowIndex row)) s

/-- FRAME_ROW_WRITE row, data (R116). -/
def execFrameRowWrite (row data : Byte) (s : State) : Answer := finish 0x00 (writeRow (rowIndex row) data s)

end Sys2Proof.Machine
end

