-- ==== Sys2Proof/Machine/Layer.lean ====
section
/-! DEFINITION. The Layer commands (41_layer.md). None emits a bus event. -/

namespace Sys2Proof.Machine

/-- LAYER_CLEAR (R143): every slot at the blank sentinel. -/
def execLayerClear (s : State) : Answer := finish 0x00 { s with layer := Vector.replicate 4 blankRaw }

/-- LAYER_GET index (R144): the encoded byte of the slot. -/
def execLayerGet (index : Byte) (s : State) : Answer :=
  match layerRead index s with
  | .ok (code, s') => finish code s'
  | .error c => raise c s

/-- LAYER_SET index, raw (R145): the raw value is stored unencoded (R146). -/
def execLayerSet (index raw : Byte) (s : State) : Answer :=
  match slotIndex index with
  | some i => finish 0x00 (writeSlot i raw s)
  | none => finish 0x00 (setOor s)

end Sys2Proof.Machine
end

