-- ==== Sys2Proof/Machine/MatrixBus.lean ====
section
/-! DEFINITION. The matrix-bus sequencer and its commands (42_matrix_bus.md). -/

namespace Sys2Proof.Machine

/-- One shifted bit: DIN while CLK is low, then a clock pulse high and low (R160). -/
def mbShiftBit (v : Bool) (s : State) : State :=
  s |> mbSet .din v |> mbSet .clk true |> mbSet .clk false

/-- `for i in 15 downto 0` (R160). -/
def mbBitOrder : List Nat := [15, 14, 13, 12, 11, 10, 9, 8, 7, 6, 5, 4, 3, 2, 1, 0]

/-- `MbXfer(addr, data)`: LOAD low, the 16 bits of `{addr, data}` MSB first, LOAD high (R160). -/
def mbTransaction (addr data : Byte) (s : State) : State :=
  let w : Word16 := addr ++ data
  mbBitOrder.foldl (fun s i => mbShiftBit (w.getLsbD i) s) (mbSet .load false s) |> mbSet .load true

/-- Transactions one after another, each an (addr, data) pair. -/
def mbTransactions (words : List (Byte × Byte)) (s : State) : State :=
  words.foldl (fun s w => mbTransaction w.1 w.2 s) s

/-- The register address of a Frame row, `MB_ROW_BASE + r` (20_memory.md R64). -/
def mbRowAddress (r : Fin 8) : Byte := mbRowBase + BitVec.ofNat 8 r.val

/-- The (addr, data) pairs of the startup sequence, in its fixed order (R163). -/
def mbInitWords (cfg : Config) : List (Byte × Byte) :=
  [(cfg.mbRegDecode, cfg.mbInitDecodeOff),
   (cfg.mbRegDispTest, cfg.mbInitDispTestOff),
   (cfg.mbRegScanLimit, cfg.mbInitScanAll),
   (cfg.mbRegShutdown, cfg.mbInitRun),
   (cfg.mbRegIntensity, cfg.mbDefaultIntensity.setWidth 8)]
  ++ rowOrder.map fun r => (mbRowAddress r, 0x00)

/-- The (addr, data) pairs of a render: every row, reversed, in ascending order (R164). -/
def mbRenderWords (frame : Vector Byte 8) : List (Byte × Byte) :=
  rowOrder.map fun r => (mbRowAddress r, rev8 frame[r])

/-- MB_XFER addr, data (R162). -/
def execMbXfer (addr data : Byte) (s : State) : Answer := finish 0x00 (mbTransaction addr data s)

/-- MB_INIT (R163): 13 transactions, the Frame untouched. -/
def execMbInit (s : State) : Answer := finish 0x00 (mbTransactions (mbInitWords s.cfg) s)

/-- MB_RENDER (R164): the Frame as it stands when the command starts. -/
def execMbRender (s : State) : Answer := finish 0x00 (mbTransactions (mbRenderWords s.frame) s)

/-- MB_BRIGHTNESS percent (R166): a percent above 100 faults before any transaction. -/
def execMbBrightness (percent : Byte) (s : State) : Answer :=
  if percent.toNat > percentMax then raise .percentRange s
  else finish 0x00 (mbTransaction s.cfg.mbRegIntensity (mbIntensity percent) s)

end Sys2Proof.Machine
end

