-- ==== Sys2Proof/Machine/SegmentBus.lean ====
section
/-! DEFINITION. The segment-bus sequencer and its commands (43_segment_bus.md). -/

namespace Sys2Proof.Machine

/-- `SbStart()` (R191). -/
def sbStart (s : State) : State := s |> sbDriveLow .sda |> sbDelay

/-- `SbStop()` (R192): both lines end released. -/
def sbStop (s : State) : State :=
  s |> sbDriveLow .sda |> sbDelay |> sbRelease .scl |> sbDelay |> sbRelease .sda |> sbDelay

/-- One data bit: SDA's direction by the bit while SCL is low, then a clock pulse (R193). -/
def sbDataBit (v : Bool) (s : State) : State :=
  let s1 := sbDriveLow .scl s
  let s2 := if v then sbRelease .sda s1 else sbDriveLow .sda s1
  s2 |> sbDelay |> sbRelease .scl |> sbDelay |> sbDriveLow .scl |> sbDelay

/-- The data phase: `n` bits, the least significant first, the byte shifted right after each (R193). -/
def sbDataBits : Nat → Byte → State → State
  | 0, _, s => s
  | n + 1, d, s => sbDataBits n (d >>> 1) (sbDataBit (d.getLsbD 0) s)

/-- `AckStatus(lvl)` (R195). -/
def ackStatus (lvl : Bool) (s : State) : State := { s with status := recordAck lvl s.status }

/-- `SbAck()`: the sensed level, true for high (no ack), and the state after the cycle; on no ack SDA is driven low
(R194, 90_conflicts.md C1). -/
def sbAck (s : State) : Bool × State :=
  let sensed := s |> sbRelease .sda |> sbDelay |> sbRelease .scl |> sbDelay |> sbDriveLow .scl |> sbDelay |> sbSense
  let s1 := if sensed.1 then sbDriveLow .sda sensed.2 else sensed.2
  (sensed.1, ackStatus sensed.1 (sbDelay s1))

/-- `SbWriteByte(b)`: eight bits and the acknowledge cycle (R193, R194). -/
def sbWriteByte (b : Byte) (s : State) : Bool × State := sbAck (sbDataBits 8 b s)

/-- Bytes one after another; a missing acknowledge does not stop them (R199). -/
def sbWriteBytes (bytes : List Byte) (s : State) : State :=
  bytes.foldl (fun s b => (sbWriteByte b s).2) s

/-- One frame: start, bytes, stop (30_encoding.md R100). -/
def sbFrame (bytes : List Byte) (s : State) : State := s |> sbStart |> sbWriteBytes bytes |> sbStop

/-- The encoded bytes of raw values, or the fault of the first above 9 (41_layer.md R140). -/
def encodeSlots (t : DigitTable) : List Byte → Except FaultCause (List Byte)
  | [] => .ok []
  | raw :: rest =>
    match encodeDigit t raw with
    | .error c => .error c
    | .ok code =>
      match encodeSlots t rest with
      | .error c => .error c
      | .ok codes => .ok (code :: codes)

/-- `b | (SEP << DP_BIT)` (R200). -/
def withSeparator (sep : Bool) (b : Byte) : Byte := b ||| (zextBit sep <<< dpBit)

/-- SEG_RENDER (R199): all four slots are encoded before the first event, so a fault emits nothing (D29) and the Layer
and SEP are sent as they stand when the command starts (70_reset_and_hazards.md R279; log entry 11). -/
def execSegRender (s : State) : Answer :=
  match encodeSlots s.cfg.digits s.layer.toList with
  | .error c => raise c s
  | .ok codes =>
    finish 0x00
      (s |> sbFrame [sbCmdData] |> sbFrame ((sbCmdAddr + 0) :: codes.map (withSeparator (separator s.segctl))))

/-- SEG_BRIGHTNESS percent, en (R202): a percent above 100 faults before any event. -/
def execSegBrightness (percent en : Byte) (s : State) : Answer :=
  if percent.toNat > percentMax then raise .percentRange s
  else finish 0x00 (sbFrame [displayControl s.cfg percent (bitOf en)] s)

/-- SEG_CONFIG sep: "it emits no bus event" (R203), as 70_reset_and_hazards.md R282 and program P2 of 95_test_vectors.md count;
the summaries of 10_state.md R42 and 20_memory.md R72 say otherwise (log entry 9). -/
def execSegConfig (sep : Byte) (s : State) : Answer :=
  finish 0x00 { s with segctl := setSeparator s.segctl (bitOf sep) }

/-- SEG_START (R196). -/
def execSegStart (s : State) : Answer := finish 0x00 (sbStart s)

/-- SEG_STOP (R197). -/
def execSegStop (s : State) : Answer := finish 0x00 (sbStop s)

/-- SEG_WRITE byte (R198): 1 when acknowledged, that is when the sensed level is low (D44). -/
def execSegWrite (byte : Byte) (s : State) : Answer :=
  let sent := sbWriteByte byte s
  finish (zextBit (!sent.1)) sent.2

end Sys2Proof.Machine
end

