-- ==== Sys2Proof/Machine/StatusRegister.lean ====
section
/-! DEFINITION. The status commands (44_status.md). -/

namespace Sys2Proof.Machine

/-- STATUS_READ (R230): the read clears nothing. -/
def execStatusRead (s : State) : Answer := finish (statusByte s.status) s

/-- STATUS_CLEAR (R231): ACK_LAST, FAULT and FAULT_CAUSE stay. -/
def execStatusClear (s : State) : Answer := finish 0x00 { s with status := clearSticky s.status }

end Sys2Proof.Machine
end

