-- ==== Sys2Proof/Machine/Dispatch.lean ====
section
/-! DEFINITION. One arm per command, each a direct call of its meaning. -/

namespace Sys2Proof.Machine

def exec (i : Instr) (s : State) : Host.Outcome State Fault Refusal :=
  match i with
  -- Frame commands (40_frame.md)
  | .frameClear => Sys2Proof.Machine.execFrameClear s
  | .frameGet row col => Sys2Proof.Machine.execFrameGet row col s
  | .frameSet row col v => Sys2Proof.Machine.execFrameSet row col v s
  | .frameSetRaw row col v => Sys2Proof.Machine.execFrameSetRaw row col v s
  | .frameRowRead row => Sys2Proof.Machine.execFrameRowRead row s
  | .frameRowWrite row data => Sys2Proof.Machine.execFrameRowWrite row data s
  -- Layer commands (41_layer.md)
  | .layerClear => Sys2Proof.Machine.execLayerClear s
  | .layerGet index => Sys2Proof.Machine.execLayerGet index s
  | .layerSet index raw => Sys2Proof.Machine.execLayerSet index raw s
  -- Matrix-bus commands (42_matrix_bus.md)
  | .mbInit => Sys2Proof.Machine.execMbInit s
  | .mbRender => Sys2Proof.Machine.execMbRender s
  | .mbBrightness percent => Sys2Proof.Machine.execMbBrightness percent s
  | .mbXfer addr data => Sys2Proof.Machine.execMbXfer addr data s
  -- Segment-bus commands (43_segment_bus.md)
  | .segRender => Sys2Proof.Machine.execSegRender s
  | .segBrightness percent en => Sys2Proof.Machine.execSegBrightness percent en s
  | .segConfig sep => Sys2Proof.Machine.execSegConfig sep s
  | .segStart => Sys2Proof.Machine.execSegStart s
  | .segStop => Sys2Proof.Machine.execSegStop s
  | .segWrite byte => Sys2Proof.Machine.execSegWrite byte s
  -- Status commands (44_status.md)
  | .statusRead => Sys2Proof.Machine.execStatusRead s
  | .statusClear => Sys2Proof.Machine.execStatusClear s

end Sys2Proof.Machine
end

