-- ==== Sys2Proof/Machine/Command.lean ====
section
/-! DEFINITION. What the block does with one input of the host. -/

namespace Sys2Proof.Machine

/-- A command word is decoded and its command executed; a word of no row raises ILLEGAL_COMMAND, no operand of it
examined (30_encoding.md R80, R84; 60_exceptions.md R244). -/
def runWord (w : Word) (s : State) : Answer :=
  match decode w with
  | .ok i => exec i s
  | .error _ => raise .illegalCommand s

/-- One input of the host: a command word, or the reset input between commands (70_reset_and_hazards.md R270). -/
def runInput (input : HostInput) (s : State) : Answer :=
  match input with
  | .command w => runWord w s
  | .reset => .next (resetBlock s)

/-- The state in which `w` is the host's next input. -/
def withCommand (w : Word) (s : State) : State := { s with inbox := .command w :: s.inbox }

end Sys2Proof.Machine
end

