-- ==== Sys2Proof/Machine/Step.lean ====
section
/-! DEFINITION. One step of the block: it takes the host's oldest input and runs it to completion (30_encoding.md R80, R81). -/

namespace Sys2Proof.Machine

/-- One step. The block fetches nothing (10_state.md R39): the host's oldest input is taken and run; with none, nothing
happens (70_reset_and_hazards.md R284). -/
def step (s : State) : Host.Outcome State Fault Refusal :=
  match takeInput s with
  | none => .fault .awaitingCommand
  | some (input, s') => runInput input s'

/-- `s` with the instruction of `nbits` bits in `w` as the host's next command (log entry 1). -/
def State.withFetchWord (s : State) (nbits w : Nat) : State :=
  withCommand (BitVec.ofNat 32 (w % 2 ^ nbits)) s

end Sys2Proof.Machine
end

