-- ==== Sys2Proof/Machine/Pseudo.lean ====
section
/-! DEFINITION. What the host makes of commands: the pseudo-commands, each an exact expansion, the OR-merge sequence and the
tick (30_encoding.md R91, R92, R96 to R98; 70_reset_and_hazards.md R274). -/

namespace Sys2Proof.Machine

/-- Commands one after another, each on the state its predecessor left (20_memory.md R73). -/
def execAll : List Instr → State → Answer
  | [], s => .next s
  | i :: rest, s =>
    match exec i s with
    | .next t => execAll rest t
    | .fault f => .fault f
    | .refused r => .refused r

/-- `CANVAS_CLEAR` (R91). -/
def canvasClear : List Instr := [.frameClear, .layerClear]

/-- `RENDER_ALL` (R91). -/
def renderAll : List Instr := [.mbRender, .segRender]

/-- `BRIGHTNESS_ALL p`, with enable 1 (R91, D37). -/
def brightnessAll (p : Byte) : List Instr := [.mbBrightness p, .segBrightness p 1]

/-- `LAYER_BLANK i` (R92). -/
def layerBlank (index : Byte) : List Instr := [.layerSet index blankRaw]

/-- `FRAME_STAMP v, (r0, c0), ...` in list order (R96). -/
def frameStamp (v : Byte) (points : List (Byte × Byte)) : List Instr :=
  points.map fun p => .frameSet p.1 p.2 v

/-- `FRAME_LOAD b0, ..., b7` (R97). -/
def frameLoad (rows : Vector Byte 8) : List Instr :=
  rowOrder.map fun r => .frameRowWrite (BitVec.ofNat 8 r.val) rows[r]

/-- The host sequence `FRAME_OR_ROW r, m`: the host does the OR between the two commands (R98). -/
def frameOrRow (row mask : Byte) (s : State) : Answer :=
  match exec (.frameRowRead row) s with
  | .next t => exec (.frameRowWrite row (t.result ||| mask)) t
  | .fault f => .fault f
  | .refused r => .refused r

/-- A tick's canvas and render phases around the game's writes (R274). -/
def drawTick (writes : List Instr) : List Instr := canvasClear ++ writes ++ renderAll

/-- A whole tick as the scheduler runs it (R274). -/
def tick (p : Byte) (writes : List Instr) : List Instr := brightnessAll p ++ drawTick writes

end Sys2Proof.Machine
end

