-- ==== Sys2Proof/Machine/Assembler.lean ====
section
/-! DEFINITION. The assembler of the host's side (30_encoding.md R89, R90): one command a line, operands separated by commas,
`;` opens a comment, decimal or `0x` literals, and no word for a literal outside its operand's range; the pseudo-commands
give the words of their expansions (R91, R92, R96, R97). The points these rules leave open are log entry 15. -/

namespace Sys2Proof.Machine

/-- Why a line gives no word. -/
inductive AsmError where
  /-- The first word of the line is no mnemonic of the opcode map and no pseudo-command. -/
  | unknownMnemonic
  /-- The line has too few or too many operands for its format. -/
  | operandCount
  /-- An operand is neither a decimal nor a `0x` literal (R90), or a point of FRAME_STAMP lacks its parentheses (R96). -/
  | badLiteral
  /-- A literal is outside its operand's range (R90). -/
  | outOfRange
deriving DecidableEq, Repr

/-- An operand literal: decimal with an optional minus sign, or hexadecimal (R90). -/
inductive Literal where
  | dec (v : Int)
  | hex (v : Nat)
deriving DecidableEq, Repr

/-- The kinds of operand of R90. -/
inductive OperandKind where
  | s8
  | u8
  | row3
  | bit
deriving DecidableEq, Repr

/-- The mnemonics of the opcode map (R85). -/
inductive Mnemonic where
  | frameClear
  | frameGet
  | frameSet
  | frameSetRaw
  | frameRowRead
  | frameRowWrite
  | layerClear
  | layerGet
  | layerSet
  | mbInit
  | mbRender
  | mbBrightness
  | mbXfer
  | segRender
  | segBrightness
  | segConfig
  | segStart
  | segStop
  | segWrite
  | statusRead
  | statusClear
deriving DecidableEq, Repr

/-- The mnemonic a name spells (R85, R89). -/
def mnemonicOf : String → Option Mnemonic
  | "FRAME_CLEAR" => some .frameClear
  | "FRAME_GET" => some .frameGet
  | "FRAME_SET" => some .frameSet
  | "FRAME_SET_RAW" => some .frameSetRaw
  | "FRAME_ROW_READ" => some .frameRowRead
  | "FRAME_ROW_WRITE" => some .frameRowWrite
  | "LAYER_CLEAR" => some .layerClear
  | "LAYER_GET" => some .layerGet
  | "LAYER_SET" => some .layerSet
  | "MB_INIT" => some .mbInit
  | "MB_RENDER" => some .mbRender
  | "MB_BRIGHTNESS" => some .mbBrightness
  | "MB_XFER" => some .mbXfer
  | "SEG_RENDER" => some .segRender
  | "SEG_BRIGHTNESS" => some .segBrightness
  | "SEG_CONFIG" => some .segConfig
  | "SEG_START" => some .segStart
  | "SEG_STOP" => some .segStop
  | "SEG_WRITE" => some .segWrite
  | "STATUS_READ" => some .statusRead
  | "STATUS_CLEAR" => some .statusClear
  | _ => none

/-- The value of a decimal digit. -/
def decDigit (c : Char) : Option Nat :=
  if '0' ≤ c ∧ c ≤ '9' then some (c.toNat - '0'.toNat) else none

/-- The value of a hexadecimal digit, of either case. -/
def hexDigit (c : Char) : Option Nat :=
  if '0' ≤ c ∧ c ≤ '9' then some (c.toNat - '0'.toNat)
  else if 'a' ≤ c ∧ c ≤ 'f' then some (c.toNat - 'a'.toNat + 10)
  else if 'A' ≤ c ∧ c ≤ 'F' then some (c.toNat - 'A'.toNat + 10)
  else none

/-- The value of digits read after `acc`, none if one of them is no digit. -/
def digitsFrom (base : Nat) (digit : Char → Option Nat) : Nat → List Char → Option Nat
  | acc, [] => some acc
  | acc, c :: rest =>
    match digit c with
    | some d => digitsFrom base digit (acc * base + d) rest
    | none => none

/-- The value of one or more digits. -/
def number (base : Nat) (digit : Char → Option Nat) (cs : List Char) : Option Nat :=
  if cs.isEmpty then none else digitsFrom base digit 0 cs

/-- The literal a text is (R90). -/
def parseLiteral : List Char → Option Literal
  | '0' :: 'x' :: rest => (number 16 hexDigit rest).map .hex
  | '-' :: rest => (number 10 decDigit rest).map fun n => .dec (-(n : Int))
  | cs => (number 10 decDigit cs).map fun n => .dec n

/-- The operand byte of a literal, none outside the operand's range (R90). -/
def operandByte : OperandKind → Literal → Option Byte
  | .s8, .dec v => if -128 ≤ v ∧ v ≤ 127 then some (BitVec.ofInt 8 v) else none
  | .s8, .hex v => if v ≤ 0xFF then some (BitVec.ofNat 8 v) else none
  | .u8, .dec v => if 0 ≤ v ∧ v ≤ 255 then some (BitVec.ofInt 8 v) else none
  | .u8, .hex v => if v ≤ 255 then some (BitVec.ofNat 8 v) else none
  | .row3, .dec v => if 0 ≤ v ∧ v ≤ 7 then some (BitVec.ofInt 8 v) else none
  | .row3, .hex v => if v ≤ 7 then some (BitVec.ofNat 8 v) else none
  | .bit, .dec v => if 0 ≤ v ∧ v ≤ 1 then some (BitVec.ofInt 8 v) else none
  | .bit, .hex v => if v ≤ 1 then some (BitVec.ofNat 8 v) else none

/-- The operand kinds of a mnemonic, in the order of its format (R82, R89). -/
def operandKinds : Mnemonic → List OperandKind
  | .frameClear => []
  | .frameGet => [.s8, .s8]
  | .frameSet => [.s8, .s8, .bit]
  | .frameSetRaw => [.s8, .s8, .bit]
  | .frameRowRead => [.row3]
  | .frameRowWrite => [.row3, .u8]
  | .layerClear => []
  | .layerGet => [.s8]
  | .layerSet => [.s8, .s8]
  | .mbInit => []
  | .mbRender => []
  | .mbBrightness => [.u8]
  | .mbXfer => [.u8, .u8]
  | .segRender => []
  | .segBrightness => [.u8, .bit]
  | .segConfig => [.bit]
  | .segStart => []
  | .segStop => []
  | .segWrite => [.u8]
  | .statusRead => []
  | .statusClear => []

/-- The command of a mnemonic and its operand bytes, operand 0 first (R89). -/
def instrOf (m : Mnemonic) (bytes : List Byte) : Instr :=
  let operand (k : Nat) : Byte := bytes.getD k 0
  match m with
  | .frameClear => .frameClear
  | .frameGet => .frameGet (operand 0) (operand 1)
  | .frameSet => .frameSet (operand 0) (operand 1) (operand 2)
  | .frameSetRaw => .frameSetRaw (operand 0) (operand 1) (operand 2)
  | .frameRowRead => .frameRowRead (operand 0)
  | .frameRowWrite => .frameRowWrite (operand 0) (operand 1)
  | .layerClear => .layerClear
  | .layerGet => .layerGet (operand 0)
  | .layerSet => .layerSet (operand 0) (operand 1)
  | .mbInit => .mbInit
  | .mbRender => .mbRender
  | .mbBrightness => .mbBrightness (operand 0)
  | .mbXfer => .mbXfer (operand 0) (operand 1)
  | .segRender => .segRender
  | .segBrightness => .segBrightness (operand 0) (operand 1)
  | .segConfig => .segConfig (operand 0)
  | .segStart => .segStart
  | .segStop => .segStop
  | .segWrite => .segWrite (operand 0)
  | .statusRead => .statusRead
  | .statusClear => .statusClear

/-- The bytes of the operands, each within its kind's range. -/
def operandBytes : List OperandKind → List (Option Literal) → Except AsmError (List Byte)
  | [], [] => .ok []
  | k :: ks, some l :: ls =>
    match operandByte k l with
    | none => .error .outOfRange
    | some b =>
      match operandBytes ks ls with
      | .ok bs => .ok (b :: bs)
      | .error e => .error e
  | _ :: _, none :: _ => .error .badLiteral
  | _, _ => .error .operandCount

/-- The pseudo-commands with an exact expansion (R91, R92, R96, R97). -/
inductive PseudoMnemonic where
  | canvasClear
  | renderAll
  | brightnessAll
  | layerBlank
  | frameStamp
  | frameLoad
deriving DecidableEq, Repr

/-- The pseudo-command a name spells. -/
def pseudoOf : String → Option PseudoMnemonic
  | "CANVAS_CLEAR" => some .canvasClear
  | "RENDER_ALL" => some .renderAll
  | "BRIGHTNESS_ALL" => some .brightnessAll
  | "LAYER_BLANK" => some .layerBlank
  | "FRAME_STAMP" => some .frameStamp
  | "FRAME_LOAD" => some .frameLoad
  | _ => none

/-- The operand kinds of a pseudo-command: those of the operands in its expansion; FRAME_STAMP takes `points` points. -/
def pseudoKinds (points : Nat) : PseudoMnemonic → List OperandKind
  | .canvasClear => []
  | .renderAll => []
  | .brightnessAll => [.u8]
  | .layerBlank => [.s8]
  | .frameStamp => .bit :: (List.replicate points [.s8, .s8]).flatten
  | .frameLoad => List.replicate 8 .u8

/-- Bytes taken two by two. -/
def pairs : List Byte → List (Byte × Byte)
  | r :: c :: rest => (r, c) :: pairs rest
  | _ => []

/-- The expansion of a pseudo-command with its operand bytes (R91, R92, R96, R97). -/
def expand (p : PseudoMnemonic) (bytes : List Byte) : List Instr :=
  match p with
  | .canvasClear => canvasClear
  | .renderAll => renderAll
  | .brightnessAll => brightnessAll (bytes.getD 0 0)
  | .layerBlank => layerBlank (bytes.getD 0 0)
  | .frameStamp => frameStamp (bytes.getD 0 0) (pairs bytes.tail)
  | .frameLoad => frameLoad (Vector.ofFn fun r => bytes.getD r.val 0)

/-- A character that may stand around a mnemonic or an operand. -/
def isBlank (c : Char) : Bool := c == ' ' || c == '\t'

/-- A text without the blanks at its two ends. -/
def trimBlanks (cs : List Char) : List Char :=
  ((cs.dropWhile isBlank).reverse.dropWhile isBlank).reverse

/-- The pieces of a text between separators. -/
def splitAtChar (sep : Char) : List Char → List (List Char)
  | [] => [[]]
  | c :: rest =>
    if c == sep then [] :: splitAtChar sep rest
    else
      match splitAtChar sep rest with
      | piece :: pieces => (c :: piece) :: pieces
      | [] => [[c]]

/-- The coordinate texts of FRAME_STAMP's points `(r, c)`, their parentheses taken off, none where one is missing (R96). -/
def pointTexts : List (List Char) → Option (List (List Char))
  | [] => some []
  | ('(' :: row) :: col :: rest =>
    match col.reverse, pointTexts rest with
    | ')' :: lastFirst, some texts => some (trimBlanks row :: trimBlanks lastFirst.reverse :: texts)
    | _, _ => none
  | _ => none

/-- The operand texts of a pseudo-command, without the parentheses of points. -/
def pseudoTexts (p : PseudoMnemonic) (texts : List (List Char)) : Option (List (List Char)) :=
  match p, texts with
  | .frameStamp, v :: points => (pointTexts points).map (v :: ·)
  | _, _ => some texts

/-- The commands of a mnemonic's or pseudo-command's name and its operand texts. -/
def assembleCommand (name : String) (texts : List (List Char)) : Except AsmError (List Instr) :=
  match mnemonicOf name, pseudoOf name with
  | some m, _ =>
    match operandBytes (operandKinds m) (texts.map parseLiteral) with
    | .error e => .error e
    | .ok bytes => .ok [instrOf m bytes]
  | none, some p =>
    match pseudoTexts p texts with
    | none => .error .badLiteral
    | some plain =>
      match operandBytes (pseudoKinds ((plain.length - 1) / 2) p) (plain.map parseLiteral) with
      | .error e => .error e
      | .ok bytes => .ok (expand p bytes)
  | none, none => .error .unknownMnemonic

/-- The words of a line, none for a line that holds no command (R89). -/
def assembleLine (line : List Char) : Except AsmError (List Word) :=
  let text := trimBlanks (line.takeWhile (· ≠ ';'))
  let mnemonic := text.takeWhile (!isBlank ·)
  let rest := trimBlanks (text.dropWhile (!isBlank ·))
  let operands := if rest.isEmpty then [] else (splitAtChar ',' rest).map trimBlanks
  if text.isEmpty then .ok []
  else
    match assembleCommand (String.ofList mnemonic) operands with
    | .ok is => .ok (is.map encode)
    | .error e => .error e

/-- The words of the lines of a program, in order. DESIGN CHOICE (log entry 15): a line that is refused refuses the whole
text, and the words of its other lines are not emitted; R90 says only that the refused literal gets no word. -/
def assembleLines : List (List Char) → Except AsmError (List Word)
  | [] => .ok []
  | line :: rest =>
    match assembleLine line with
    | .error e => .error e
    | .ok ws =>
      match assembleLines rest with
      | .error e => .error e
      | .ok more => .ok (ws ++ more)

/-- The words of a program text, one command a line (R89). -/
def assemble (text : String) : Except AsmError (List Word) := assembleLines (splitAtChar '\n' text.toList)

end Sys2Proof.Machine
end

