-- ==== Sys2Proof/Machine/Targets.lean ====
section
/-! DEFINITION. The buses seen from outside: the event sequences of the wire formats written out (30_encoding.md R99, R100), and
a simulated target on each bus that reads what the lines carry. No step uses this file; statements do. -/

namespace Sys2Proof.Machine

/-! ## The event sequences, written out -/

/-- The events of one shifted matrix bit (42_matrix_bus.md R160). -/
def mbBitEvents (v : Bool) : List Event := [.mbDin v, .mbClk true, .mbClk false]

/-- The sixteen bits of `{addr, data}` in the order they are sent, MSB first (R99). -/
def mbWordBits (w : Byte × Byte) : List Bool := mbBitOrder.map (w.1 ++ w.2).getLsbD

/-- The 50 events of one transaction (R160). -/
def mbWordEvents (w : Byte × Byte) : List Event :=
  [.mbLoad false] ++ (mbWordBits w).flatMap mbBitEvents ++ [.mbLoad true]

/-- The events of a start condition (43_segment_bus.md R191). -/
def sbStartEvents : List Event := [.sbDrive .sda, .sbDelay]

/-- The events of a stop condition (R192). -/
def sbStopEvents : List Event :=
  [.sbDrive .sda, .sbDelay, .sbRelease .scl, .sbDelay, .sbRelease .sda, .sbDelay]

/-- SDA's direction for a bit: driven low for 0, released for 1 (R193). -/
def sdaEvent (v : Bool) : Event := if v then .sbRelease .sda else .sbDrive .sda

/-- The events of one data bit (R193). -/
def sbBitEvents (v : Bool) : List Event :=
  [.sbDrive .scl, sdaEvent v, .sbDelay, .sbRelease .scl, .sbDelay, .sbDrive .scl, .sbDelay]

/-- The eight bits of a byte in the order they are sent, LSB first (R100). -/
def sbByteBits (b : Byte) : List Bool := [0, 1, 2, 3, 4, 5, 6, 7].map b.getLsbD

/-- The events of an acknowledge cycle with sensed level `lvl` (R194). -/
def sbAckEvents (lvl : Bool) : List Event :=
  [.sbRelease .sda, .sbDelay, .sbRelease .scl, .sbDelay, .sbDrive .scl, .sbDelay, .sbSense lvl]
    ++ (if lvl then [.sbDrive .sda] else []) ++ [.sbDelay]

/-- The events of one byte and its acknowledge cycle (R193, R194). -/
def sbByteEvents (b : Byte) (lvl : Bool) : List Event := (sbByteBits b).flatMap sbBitEvents ++ sbAckEvents lvl

/-- The levels of `n` coming senses: what the environment has laid down, then the free values from index `k` on
(00_scope.md R12; log entry 8). -/
def drawsFrom : Nat → List Bool → Nat → List Bool
  | 0, _, _ => []
  | n + 1, d :: ds, k => d :: drawsFrom n ds (k + 1)
  | n + 1, [], k => Config.senseDraw k :: drawsFrom n [] (k + 1)

/-- The next `n` levels the target gives, in order (R12). -/
def nextDraws (n : Nat) (s : State) : List Bool := drawsFrom n s.draws s.drawCount

/-- The events of bytes sent one after another, each with the level its sense draws. -/
def sbBytesEvents : List (Byte × Bool) → List Event
  | [] => []
  | (b, lvl) :: rest => sbByteEvents b lvl ++ sbBytesEvents rest

/-- The status after acknowledge cycles that sensed these levels (R195). -/
def statusAfterAcks (levels : List Bool) (st : Byte) : Byte := levels.foldl (fun st lvl => recordAck lvl st) st

/-! ## What can be counted and timed -/

/-- The event belongs to the matrix bus. -/
def Event.isMatrix : Event → Bool
  | .mbDin _ => true
  | .mbClk _ => true
  | .mbLoad _ => true
  | .sbDrive _ => false
  | .sbRelease _ => false
  | .sbSense _ => false
  | .sbDelay => false

/-- The event is a sense. -/
def Event.isSense : Event → Bool
  | .sbSense _ => true
  | .mbDin _ => false
  | .mbClk _ => false
  | .mbLoad _ => false
  | .sbDrive _ => false
  | .sbRelease _ => false
  | .sbDelay => false

/-- How many SB_DELAY events there are (70_reset_and_hazards.md R282). -/
def delayCount (es : List Event) : Nat := es.count .sbDelay

/-- How many senses there are. -/
def senseCount (es : List Event) : Nat := es.countP Event.isSense

/-- The least time the events take, SB_BIT_DELAY for each SB_DELAY (60_exceptions.md R250). -/
def delayTime (cfg : Config) (es : List Event) : Nat := delayCount es * cfg.sbBitDelay

/-! ## A matrix target -/

/-- The clock edge at which the target samples DIN, which the source does not name (R161). -/
inductive ClockEdge where
  | rising
  | falling
deriving DecidableEq, Repr

/-- What a matrix target has seen: the lines, the bits sampled since LOAD fell, and the bits of every word latched by a
rising LOAD. -/
structure MatrixView where
  lines : MbLines
  bits : List Bool
  latched : List (List Bool)
deriving DecidableEq, Repr

/-- The target's reaction to one event. -/
def MatrixView.see (edge : ClockEdge) (v : MatrixView) (e : Event) : MatrixView :=
  match e with
  | .mbDin b => { v with lines := v.lines.write .din b }
  | .mbClk b =>
    let samples : Bool :=
      match edge with
      | .rising => !v.lines.clk && b
      | .falling => v.lines.clk && !b
    { v with lines := v.lines.write .clk b, bits := if samples then v.bits ++ [v.lines.din] else v.bits }
  | .mbLoad b =>
    if v.lines.load && !b then { v with lines := v.lines.write .load b, bits := [] }
    else if !v.lines.load && b then { v with lines := v.lines.write .load b, bits := [], latched := v.latched ++ [v.bits] }
    else v
  | .sbDrive _ => v
  | .sbRelease _ => v
  | .sbSense _ => v
  | .sbDelay => v

/-- The words a target latches from events that start with the lines at `lines`, each as its bits in order of arrival. -/
def matrixWords (edge : ClockEdge) (lines : MbLines) (es : List Event) : List (List Bool) :=
  (es.foldl (MatrixView.see edge) { lines := lines, bits := [], latched := [] }).latched

/-- DIN changes its level only while CLK is 0 (R161), from lines at `lines` on. -/
def dinStable : MbLines → List Event → Bool
  | _, [] => true
  | l, .mbDin b :: es => (!l.clk || b == l.din) && dinStable (l.write .din b) es
  | l, .mbClk b :: es => dinStable (l.write .clk b) es
  | l, .mbLoad b :: es => dinStable (l.write .load b) es
  | l, _ :: es => dinStable l es

/-! ## A segment target -/

/-- What a segment target has seen: the block's output enables, whether a frame is open, the levels sampled since the last
whole byte, the bytes of the open frame, and the frames closed by a stop condition. -/
structure SegmentView where
  lines : SbLines
  inFrame : Bool
  bits : List Bool
  bytes : List Byte
  frames : List (List Byte)
deriving DecidableEq, Repr

/-- The byte of bits that arrived least significant first. -/
def byteOfBits : List Bool → Byte
  | [] => 0
  | b :: rest => (byteOfBits rest <<< 1) ||| zextBit b

/-- A rising SCL: the target samples SDA; the ninth sample is the acknowledge clock and completes a byte (R100). -/
def SegmentView.sample (v : SegmentView) : SegmentView :=
  let bits := v.bits ++ [!v.lines.sdaOe]
  if bits.length = 9 then { v with bits := [], bytes := v.bytes ++ [byteOfBits (bits.take 8)] } else { v with bits := bits }

/-- The target's reaction to one event: SDA falling while SCL is released opens a frame, SDA rising while SCL is released
closes it (00_scope.md R15), a rising SCL samples SDA. -/
def SegmentView.see (v : SegmentView) (e : Event) : SegmentView :=
  match e with
  | .sbDrive .scl => { v with lines := v.lines.write .scl true }
  | .sbRelease .scl => { (if v.lines.sclOe then v.sample else v) with lines := v.lines.write .scl false }
  | .sbDrive .sda =>
    if !v.lines.sclOe && !v.lines.sdaOe then
      { v with lines := v.lines.write .sda true, inFrame := true, bits := [], bytes := [] }
    else { v with lines := v.lines.write .sda true }
  | .sbRelease .sda =>
    if !v.lines.sclOe && v.lines.sdaOe && v.inFrame then
      { v with lines := v.lines.write .sda false, inFrame := false, bits := [], bytes := [], frames := v.frames ++ [v.bytes] }
    else { v with lines := v.lines.write .sda false }
  | .mbDin _ => v
  | .mbClk _ => v
  | .mbLoad _ => v
  | .sbSense _ => v
  | .sbDelay => v

/-- The frames a target receives from events that start with the lines at `lines` and no frame open. -/
def segmentFrames (lines : SbLines) (es : List Event) : List (List Byte) :=
  (es.foldl SegmentView.see { lines := lines, inFrame := false, bits := [], bytes := [], frames := [] }).frames

/-- The levels the block presents on SDA at the rises of SCL, from lines at `lines` on (43_segment_bus.md R204). -/
def presentedBits : SbLines → List Event → List Bool
  | _, [] => []
  | l, .sbDrive line :: es => presentedBits (l.write line true) es
  | l, .sbRelease .sda :: es => presentedBits (l.write .sda false) es
  | l, .sbRelease .scl :: es => (if l.sclOe then [!l.sdaOe] else []) ++ presentedBits (l.write .scl false) es
  | l, _ :: es => presentedBits l es

end Sys2Proof.Machine
end

