-- ==== Sys2Proof/Safety.lean ====
section
/-! DEFINITION. What counts as a safe run, in the terms the statements use: when a command faults, the invariant of the block,
what a pixel write does, event counts, and runs of the host's inputs (60_exceptions.md R241, R248; 70_reset_and_hazards.md R283). -/

namespace Sys2Proof.Machine

/-- A state with `status.FAULT = 1` is faulted (R248). -/
def State.faulted (s : State) : Bool := faultSeen s.status

/-- The cause a command raises in a state, read from the table of causes alone (R241, R244). -/
def faultOf (i : Instr) (s : State) : Option FaultCause :=
  match i with
  | .frameSetRaw row _ _ => if row.toInt < 0 ∨ 7 < row.toInt then some .rawRowRange else none
  | .layerGet index =>
    if 0 ≤ index.toInt ∧ index.toInt ≤ 3 ∧ 9 < (s.layer.toList.getD index.toNat 0).toInt then some .digitRange else none
  | .segRender => if s.layer.toList.any fun raw => 9 < raw.toInt then some .digitRange else none
  | .mbBrightness percent => if 100 < percent.toNat then some .percentRange else none
  | .segBrightness percent _ => if 100 < percent.toNat then some .percentRange else none
  | .frameClear => none
  | .frameGet _ _ => none
  | .frameSet _ _ _ => none
  | .frameRowRead _ => none
  | .frameRowWrite _ _ => none
  | .layerClear => none
  | .layerSet _ _ => none
  | .mbInit => none
  | .mbRender => none
  | .mbXfer _ _ => none
  | .segConfig _ => none
  | .segStart => none
  | .segStop => none
  | .segWrite _ => none
  | .statusRead => none
  | .statusClear => none

/-- The cause a command word raises: ILLEGAL_COMMAND before any other (R244). -/
def faultOfWord (w : Word) (s : State) : Option FaultCause :=
  match decode w with
  | .ok i => faultOf i s
  | .error _ => some .illegalCommand

/-- What holds between commands. -/
structure State.Inv (s : State) : Prop where
  /-- `status[7]` reads 0 (10_state.md R34). -/
  statusReserved : s.status.getLsbD 7 = false
  /-- FAULT_CAUSE is 0 while FAULT is 0 (R33). -/
  noCauseWithoutFault : faultSeen s.status = false → causeField s.status = 0
  /-- A recorded fault has one of the four causes; the codes 5..7 are never recorded (60_exceptions.md R241). -/
  causeOfFault : faultSeen s.status = true → 1 ≤ (causeField s.status).toNat ∧ (causeField s.status).toNat ≤ 4
  /-- `segctl[7:1]` reads 0 (10_state.md R35). -/
  segctlReserved : s.segctl.toNat < 2
  /-- Every transaction ends with CLK 0 (42_matrix_bus.md R160). -/
  clockLow : s.mb.clk = false
  /-- Every transaction ends with LOAD 1 (R160). -/
  latchHigh : s.mb.load = true

/-- The segment bus is idle: both lines released (10_state.md R37). -/
def State.segmentIdle (s : State) : Bool := !s.sb.sclOe && !s.sb.sdaOe

/-- From `s` to `t` the pixel (r, c) took the value v, every other pixel and everything but `result` stayed, and `result`
is 0 (20_memory.md R61, 40_frame.md R113). -/
def PixelWritten (r c : Fin 8) (v : Bool) (s t : State) : Prop :=
  t.frame[r].getLsbD (7 - c.val) = v ∧
  (∀ r' c' : Fin 8, ¬(r' = r ∧ c' = c) → t.frame[r'].getLsbD (7 - c'.val) = s.frame[r'].getLsbD (7 - c'.val)) ∧
  t = { s with frame := t.frame, result := 0 }

/-- Both coordinates are in 0..7, compared as s8 values (40_frame.md R110). -/
abbrev BothInRange (row col : Byte) : Prop :=
  0 ≤ row.toInt ∧ row.toInt ≤ 7 ∧ 0 ≤ col.toInt ∧ col.toInt ≤ 7

/-- The byte a raw value of at most 9 stands for: blank below 0, else its table entry (41_layer.md R140). -/
def encodedByte (t : DigitTable) (raw : Byte) : Byte :=
  if raw.toInt < 0 then 0x00 else (digitTable t).toList.getD raw.toNat 0x00

/-- No slot holds a raw value above 9, so that SEG_RENDER does not fault (43_segment_bus.md R199). -/
def DigitsReadable (s : State) : Prop := ∀ k : Fin 4, s.layer[k].toInt ≤ 9

/-- The four digit bytes of a render: each slot's encoded byte, bit 7 set in all four when SEP is 1 (R200). -/
def digitBytes (s : State) : List Byte :=
  ([0, 1, 2, 3] : List (Fin 4)).map fun k =>
    encodedByte s.cfg.digits s.layer[k] ||| (if s.segctl.getLsbD 0 then 0x80 else 0x00)

/-- The bus events of a command that does not fault, when every sense draws an acknowledge (70_reset_and_hazards.md R282). -/
def eventCount (i : Instr) : Nat :=
  match i with
  | .mbXfer _ _ => 50
  | .mbInit => 650
  | .mbRender => 400
  | .mbBrightness _ => 50
  | .segStart => 2
  | .segStop => 6
  | .segWrite _ => 64
  | .segBrightness _ _ => 72
  | .segRender => 400
  | .segConfig _ => 0
  | .frameClear => 0
  | .frameGet _ _ => 0
  | .frameSet _ _ _ => 0
  | .frameSetRaw _ _ _ => 0
  | .frameRowRead _ => 0
  | .frameRowWrite _ _ => 0
  | .layerClear => 0
  | .layerGet _ => 0
  | .layerSet _ _ => 0
  | .statusRead => 0
  | .statusClear => 0

/-- The SB_DELAY events of a command that does not fault (R282). -/
def delayEventCount (i : Instr) : Nat :=
  match i with
  | .segStart => 1
  | .segStop => 3
  | .segWrite _ => 28
  | .segBrightness _ _ => 32
  | .segRender => 176
  | .mbXfer _ _ => 0
  | .mbInit => 0
  | .mbRender => 0
  | .mbBrightness _ => 0
  | .segConfig _ => 0
  | .frameClear => 0
  | .frameGet _ _ => 0
  | .frameSet _ _ _ => 0
  | .frameSetRaw _ _ _ => 0
  | .frameRowRead _ => 0
  | .frameRowWrite _ _ => 0
  | .layerClear => 0
  | .layerGet _ => 0
  | .layerSet _ _ => 0
  | .statusRead => 0
  | .statusClear => 0

/-- What one run of inputs leaves: the final state and the `result` of each input, first first (R283). -/
structure RunOutcome where
  final : State
  results : List Byte
deriving DecidableEq, Repr

/-- The run of inputs from a state, none if a step of it stops. DESIGN CHOICE (log entry 19): R283 speaks of commands from
reset; here a run may start in any state and hold reset inputs, each with a result of its own, and keeps the results from
before it. -/
def runInputs : List HostInput → State → Option RunOutcome
  | [], s => some { final := s, results := [] }
  | input :: rest, s =>
    match runInput input s with
    | .next t =>
      match runInputs rest t with
      | some out => some { out with results := t.result :: out.results }
      | none => none
    | .fault _ => none
    | .refused _ => none

/-- The run of inputs from `s` ends well: it ends, and no fault is recorded at its end (R283). DESIGN CHOICE (log entry 19):
a reset input in the run clears the faults of the commands before it, and such a run may end well. -/
def endsWell (inputs : List HostInput) (s : State) : Bool :=
  match runInputs inputs s with
  | some out => !out.final.faulted
  | none => false

/-- No command word of the run raises a fault in the state it meets (R248). -/
def neverFaults : List Word → State → Bool
  | [], _ => true
  | w :: rest, s =>
    (faultOfWord w s).isNone &&
      match runWord w s with
      | .next t => neverFaults rest t
      | .fault _ => false
      | .refused _ => false

/-- A Frame or Layer write, the game's part of a tick (30_encoding.md R91, 70_reset_and_hazards.md R284). -/
def isCanvasWrite : Instr → Bool
  | .frameClear => true
  | .frameSet _ _ _ => true
  | .frameSetRaw _ _ _ => true
  | .frameRowWrite _ _ => true
  | .layerClear => true
  | .layerSet _ _ => true
  | .frameGet _ _ => false
  | .frameRowRead _ => false
  | .layerGet _ => false
  | .mbInit => false
  | .mbRender => false
  | .mbBrightness _ => false
  | .mbXfer _ _ => false
  | .segRender => false
  | .segBrightness _ _ => false
  | .segConfig _ => false
  | .segStart => false
  | .segStop => false
  | .segWrite _ => false
  | .statusRead => false
  | .statusClear => false

end Sys2Proof.Machine
end

