-- ==== Sys2Proof/Certificates/Slice0/Obligations.lean ====
section
/-! DEFINITION. The statements about the block, for the provers. -/

open Sys2Proof Sys2Proof.Machine

/-! ## Encoding (30_encoding.md) -/

/-- Decoding the word of a well-formed command gives the command back with every operand, and the word of an ill-formed
one is rejected for a must-be-zero bit (R82, R84). -/
def Obligations.DecodeAfterEncode : Prop :=
  ∀ i : Instr,
    (i.wellFormed = true → decode (encode i) = .ok i) ∧
    (i.wellFormed = false → ∃ op, decode (encode i) = .error (.mustBeZero op))

/-- A word that decodes is the word of the command it decodes to, and that command is well formed (R82). -/
def Obligations.EncodeAfterDecode : Prop :=
  ∀ (w : Word) (i : Instr), decode w = .ok i → i.wellFormed = true ∧ encode i = w

/-- R84: a word names the command whose row has `(cmd & mask) == match`, at most one row matches, and a word of no row
raises ILLEGAL_COMMAND with no other effect. -/
def Obligations.DecodingFollowsTheOpcodeMap : Prop :=
  (∀ (w : Word) (i : Instr), decode w = .ok i → i.row ∈ opcodeMap ∧ w &&& i.row.mask = i.row.pattern) ∧
  (∀ (w : Word) (r : OpRow), r ∈ opcodeMap → w &&& r.mask = r.pattern → ∃ i, decode w = .ok i ∧ i.row = r) ∧
  (∀ (w : Word) (r r' : OpRow), r ∈ opcodeMap → r' ∈ opcodeMap →
    w &&& r.mask = r.pattern → w &&& r'.mask = r'.pattern → r = r') ∧
  (∀ (s : State) (w : Word) (rest : List HostInput), s.inbox = .command w :: rest →
    (∀ r ∈ opcodeMap, w &&& r.mask ≠ r.pattern) →
    step s = .next { s with inbox := rest, status := recordFault .illegalCommand s.status, result := 0 })

/-- The rows of the opcode map as R85 lists them, match then mask. -/
def Obligations.OpcodeMapHasTheListedRows : Prop :=
  opcodeMap.map (fun r => (r.pattern, r.mask)) =
    [(0x01000000, 0xFFFFFFFF), (0x02000000, 0xFF0000FF), (0x03000000, 0xFF0000FE), (0x04000000, 0xFF0000FE),
     (0x05000000, 0xFFF8FFFF), (0x06000000, 0xFFF800FF)]
    ++ [(0x11000000, 0xFFFFFFFF), (0x12000000, 0xFF00FFFF), (0x13000000, 0xFF0000FF)]
    ++ [(0x21000000, 0xFFFFFFFF), (0x22000000, 0xFFFFFFFF), (0x23000000, 0xFF00FFFF), (0x24000000, 0xFF0000FF)]
    ++ [(0x31000000, 0xFFFFFFFF), (0x32000000, 0xFF00FEFF), (0x33000000, 0xFFFEFFFF), (0x34000000, 0xFFFFFFFF),
        (0x35000000, 0xFFFFFFFF), (0x36000000, 0xFF00FFFF)]
    ++ [(0x41000000, 0xFFFFFFFF), (0x42000000, 0xFFFFFFFF)]

/-- Words written out in the spec's examples decode to the commands they stand for, one of each family and format. -/
def Obligations.ExampleWordsDecode : Prop :=
  decode 0x01000000 = .ok .frameClear ∧ decode 0x02010700 = .ok (.frameGet 1 7) ∧
  decode 0x0303FF01 = .ok (.frameSet 3 0xFF 1) ∧ decode 0x04080001 = .ok (.frameSetRaw 8 0 1) ∧
  decode 0x05070000 = .ok (.frameRowRead 7) ∧ decode 0x06018100 = .ok (.frameRowWrite 1 0x81) ∧
  decode 0x12020000 = .ok (.layerGet 2) ∧ decode 0x13010700 = .ok (.layerSet 1 7) ∧
  decode 0x23320000 = .ok (.mbBrightness 50) ∧ decode 0x240A0800 = .ok (.mbXfer 0x0A 0x08) ∧
  decode 0x32320100 = .ok (.segBrightness 50 1) ∧ decode 0x33010000 = .ok (.segConfig 1) ∧
  decode 0x36400000 = .ok (.segWrite 0x40) ∧ decode 0x41000000 = .ok .statusRead ∧
  decode 0x03000002 = .error (.mustBeZero 3) ∧ decode 0x05080000 = .error (.mustBeZero 5) ∧
  decode 0x00000000 = .error (.reservedOp 0)

/-- The reserved OP values of R86 are rejected as such, and no other word is. -/
def Obligations.ReservedOpcodesAreRejected : Prop :=
  ∀ w : Word,
    (∃ op, decode w = .error (.reservedOp op)) ↔
      (let op := (opField w).toNat
       op = 0x00 ∨ (0x07 ≤ op ∧ op ≤ 0x10) ∨ (0x14 ≤ op ∧ op ≤ 0x20) ∨ (0x25 ≤ op ∧ op ≤ 0x30) ∨
         (0x37 ≤ op ∧ op ≤ 0x40) ∨ 0x43 ≤ op)

/-- A byte port carries OP, A, B, C, most significant byte of the word first (20_memory.md R69); other lengths make no word,
which is the model's choice (log entry 14). -/
def Obligations.BytePortCarriesOpFirst : Prop :=
  (∀ op a b c : Byte, decodePort [op, a, b, c] = decode (op ++ a ++ b ++ c)) ∧
  (∀ w : Word, decodePort (portBytes w) = decode w) ∧
  (∀ bytes : List Byte, bytes.length ≠ 4 → decodePort bytes = .error (.portLength bytes.length))

/-- For every kind of operand and both forms of literal, a literal gives an operand byte exactly within the range of its
kind, and the byte has the literal's value, signed for an s8 operand in decimal (30_encoding.md R90). -/
def Obligations.LiteralsAreRangeChecked : Prop :=
  (∀ v : Int, (operandByte .s8 (.dec v)).isSome = true ↔ -128 ≤ v ∧ v ≤ 127) ∧
  (∀ v : Nat, (operandByte .s8 (.hex v)).isSome = true ↔ v ≤ 0xFF) ∧
  (∀ v : Int, (operandByte .u8 (.dec v)).isSome = true ↔ 0 ≤ v ∧ v ≤ 255) ∧
  (∀ v : Nat, (operandByte .u8 (.hex v)).isSome = true ↔ v ≤ 255) ∧
  (∀ v : Int, (operandByte .row3 (.dec v)).isSome = true ↔ 0 ≤ v ∧ v ≤ 7) ∧
  (∀ v : Nat, (operandByte .row3 (.hex v)).isSome = true ↔ v ≤ 7) ∧
  (∀ v : Int, (operandByte .bit (.dec v)).isSome = true ↔ v = 0 ∨ v = 1) ∧
  (∀ v : Nat, (operandByte .bit (.hex v)).isSome = true ↔ v = 0 ∨ v = 1) ∧
  (∀ (v : Int) (b : Byte), operandByte .s8 (.dec v) = some b → b.toInt = v) ∧
  (∀ (k : OperandKind) (v : Int) (b : Byte), k ≠ .s8 → operandByte k (.dec v) = some b → (b.toNat : Int) = v) ∧
  (∀ (k : OperandKind) (v : Nat) (b : Byte), operandByte k (.hex v) = some b → b.toNat = v)

/-- Every word the assembler emits, for a command or for the expansion of a pseudo-command, is the word of a well-formed
command (R89, R90). -/
def Obligations.AssembledWordsDecode : Prop :=
  ∀ (line : List Char) (ws : List Word) (w : Word), assembleLine line = .ok ws → w ∈ ws →
    ∃ i : Instr, i.wellFormed = true ∧ w = encode i ∧ decode w = .ok i

/-! ## Steps (30_encoding.md R80, R81; 70_reset_and_hazards.md) -/

/-- One step takes the host's oldest input: the command of its word runs, a word of no command raises ILLEGAL_COMMAND, and
with no input there is no step (R80, R84, R284). The queue of inputs is the model's (log entry 1). -/
def Obligations.StepRunsTheNextCommand : Prop :=
  (∀ (s : State) (w : Word) (rest : List HostInput) (i : Instr), s.inbox = .command w :: rest → decode w = .ok i →
    step s = exec i { s with inbox := rest }) ∧
  (∀ (s : State) (w : Word) (rest : List HostInput) (e : Rejection), s.inbox = .command w :: rest → decode w = .error e →
    step s = .next { s with inbox := rest, status := recordFault .illegalCommand s.status, result := 0 }) ∧
  (∀ s : State, s.inbox = [] → step s = .fault .awaitingCommand) ∧
  (∀ (s : State) (i : Instr), i.wellFormed = true → step (s.withFetchWord 32 (encode i).toNat) = exec i s)

/-- Every command runs to completion in every state: the block never stops on a command and always goes on (30_encoding.md
R81, 60_exceptions.md R245). That a step takes exactly one input from the queue of the host's inputs is the model's choice (log
entry 1), and so is that the further inputs stay after the reset input (log entry 2). -/
def Obligations.EveryInputCompletes : Prop :=
  (∀ (i : Instr) (s : State), ∃ t, exec i s = .next t ∧ t.inbox = s.inbox) ∧
  (∀ s : State, s.inbox ≠ [] → ∃ t, step s = .next t ∧ t.inbox = s.inbox.tail)

/-- The reset values of the Frame and the Layer (10_state.md R21, R24) and of the other elements (R27, R29 to R37, R38). -/
def Obligations.ResetLeavesTheStatedValues : Prop :=
  (∀ r : Fin 8, State.reset.frame[r] = 0x00) ∧ (∀ k : Fin 4, State.reset.layer[k].toInt = -1) ∧
  State.reset.result = 0x00 ∧ State.reset.status = 0x00 ∧ State.reset.segctl = 0x00 ∧
  State.reset.mb = { din := false, clk := false, load := true } ∧
  State.reset.sb = { sclOe := false, sdaOe := false } ∧ State.reset.trace = []

/-- The reset input puts every element of the block at its reset value, between commands, and emits nothing (R270, R272);
that the host's further inputs, the levels to come and the parameters stay is the model's reading (log entry 2). -/
def Obligations.ResetInputRestoresTheBlock : Prop :=
  ∀ (s : State) (rest : List HostInput), s.inbox = .reset :: rest →
    step s = .next { State.reset with cfg := s.cfg, inbox := rest, draws := s.draws, drawCount := s.drawCount }

/-- The reset state meets the invariant of the block. -/
def Obligations.ResetMeetsTheInvariant : Prop := State.reset.Inv

/-- Every step keeps the invariant of the block: the reserved bits of status and segctl read 0 (10_state.md R34, R35), the
cause is 0 without a fault and one of the four causes with one (R33, 60_exceptions.md R241), and the matrix bus rests with
CLK 0 and LOAD 1 (42_matrix_bus.md R160). -/
def Obligations.StepKeepsTheInvariant : Prop :=
  ∀ s t : State, s.Inv → step s = .next t → t.Inv

/-- No command changes a parameter (10_state.md R41); that the parameters stand in the state and that the reset input keeps
them, the clause about every step, is the model's choice (log entries 2 and 3). -/
def Obligations.NoStepChangesAParameter : Prop :=
  (∀ (i : Instr) (s t : State), exec i s = .next t → t.cfg = s.cfg) ∧
  (∀ s t : State, step s = .next t → t.cfg = s.cfg)

/-! ## Who touches what (10_state.md R22, R25, R42) -/

/-- R22: only FRAME_CLEAR, FRAME_SET, FRAME_SET_RAW and FRAME_ROW_WRITE write the Frame, and what any command but those that
read it does is the same whatever the Frame holds. -/
def Obligations.OnlyFrameCommandsTouchTheFrame : Prop :=
  (∀ (i : Instr) (s t : State), exec i s = .next t → t.frame ≠ s.frame →
    i = .frameClear ∨ (∃ r c v, i = .frameSet r c v) ∨ (∃ r c v, i = .frameSetRaw r c v) ∨
      ∃ r d, i = .frameRowWrite r d) ∧
  (∀ (i : Instr) (s t : State) (frame' : Vector Byte 8), exec i s = .next t →
    (∀ r c, i ≠ .frameGet r c) → (∀ r, i ≠ .frameRowRead r) → i ≠ .mbRender →
    ∃ t', exec i { s with frame := frame' } = .next t' ∧ t' = { t with frame := t'.frame })

/-- R25: only LAYER_CLEAR and LAYER_SET write the Layer, and only LAYER_GET and SEG_RENDER read it. -/
def Obligations.OnlyLayerCommandsTouchTheLayer : Prop :=
  (∀ (i : Instr) (s t : State), exec i s = .next t → t.layer ≠ s.layer →
    i = .layerClear ∨ ∃ k raw, i = .layerSet k raw) ∧
  (∀ (i : Instr) (s t : State) (layer' : Vector Byte 4), exec i s = .next t →
    (∀ k, i ≠ .layerGet k) → i ≠ .segRender →
    ∃ t', exec i { s with layer := layer' } = .next t' ∧ t' = { t with layer := t'.layer })

/-- Which commands set and clear ACK_LAST, NACK_SEEN and OOR_SEEN, that no command writes the reserved bit, and that FAULT and
FAULT_CAUSE change only where the command raises a cause of 60_exceptions.md R241 (R29 to R34, R42). -/
def Obligations.StatusFieldsChangeOnlyAsStated : Prop :=
  ∀ (i : Instr) (s t : State), exec i s = .next t →
    (t.status.getLsbD 0 ≠ s.status.getLsbD 0 → (∃ b, i = .segWrite b) ∨ i = .segRender ∨ ∃ p en, i = .segBrightness p en) ∧
    (s.status.getLsbD 1 = false → t.status.getLsbD 1 = true →
      (∃ b, i = .segWrite b) ∨ i = .segRender ∨ ∃ p en, i = .segBrightness p en) ∧
    (s.status.getLsbD 1 = true → t.status.getLsbD 1 = false → i = .statusClear) ∧
    (s.status.getLsbD 2 = false → t.status.getLsbD 2 = true →
      (∃ r c, i = .frameGet r c) ∨ (∃ r c v, i = .frameSet r c v) ∨ (∃ r c v, i = .frameSetRaw r c v) ∨
        (∃ k, i = .layerGet k) ∨ ∃ k raw, i = .layerSet k raw) ∧
    (s.status.getLsbD 2 = true → t.status.getLsbD 2 = false → i = .statusClear) ∧
    t.status.getLsbD 7 = s.status.getLsbD 7 ∧
    (t.status.getLsbD 3 ≠ s.status.getLsbD 3 ∨ t.status.extractLsb' 4 3 ≠ s.status.extractLsb' 4 3 → faultOf i s ≠ none)

/-- The trace is append-only, the events of one command are all of one bus, only that bus's lines move, and only the
sequencer commands emit at all; segctl is written by SEG_CONFIG alone (R35 to R38, R42, 20_memory.md R74). That SEG_CONFIG
emits nothing is 43_segment_bus.md R203 and 70_reset_and_hazards.md R282, followed over R42's table (log entry 9, DEDUCED). -/
def Obligations.CommandsUseOneBusAndAppend : Prop :=
  ∀ (i : Instr) (s t : State), exec i s = .next t →
    (∃ es : List Event, t.trace = s.trace ++ es ∧
      ((∀ e ∈ es, e.isMatrix = true) ∧ t.sb = s.sb ∨ (∀ e ∈ es, e.isMatrix = false) ∧ t.mb = s.mb) ∧
      (es ≠ [] → eventCount i ≠ 0)) ∧
    (t.mb ≠ s.mb → i = .mbInit ∨ i = .mbRender ∨ (∃ p, i = .mbBrightness p) ∨ ∃ a d, i = .mbXfer a d) ∧
    (t.sb ≠ s.sb → i = .segStart ∨ i = .segStop ∨ i = .segRender ∨ (∃ p en, i = .segBrightness p en) ∨
      ∃ b, i = .segWrite b) ∧
    (t.segctl ≠ s.segctl → ∃ sep, i = .segConfig sep)

/-! ## Faults (60_exceptions.md) -/

/-- A command or word that raises a cause sets FAULT, keeps the first cause and gives result 0 (R242, R246), and changes
nothing else (R243, which the spec marks as derived); the conditions are those of R241 in the priority of R244. A word that
raises none leaves FAULT and FAULT_CAUSE as they are. -/
def Obligations.FaultingWordOnlyRecordsTheFault : Prop :=
  (∀ (w : Word) (s : State) (c : FaultCause), faultOfWord w s = some c →
    ∃ t, runWord w s = .next t ∧ t = { s with status := t.status, result := 0 } ∧
      t.status.getLsbD 3 = true ∧
      (s.status.getLsbD 3 = false → t.status.extractLsb' 4 3 =
        (match c with | .illegalCommand => 1 | .rawRowRange => 2 | .digitRange => 3 | .percentRange => 4)) ∧
      (s.status.getLsbD 3 = true → t.status.extractLsb' 4 3 = s.status.extractLsb' 4 3) ∧
      t.status.extractLsb' 0 3 = s.status.extractLsb' 0 3 ∧ t.status.getLsbD 7 = s.status.getLsbD 7) ∧
  (∀ (w : Word) (s : State), faultOfWord w s = none →
    ∃ t, runWord w s = .next t ∧ t.status.getLsbD 3 = s.status.getLsbD 3 ∧
      t.status.extractLsb' 4 3 = s.status.extractLsb' 4 3)

/-- R245: whatever FAULT and FAULT_CAUSE hold, a later command behaves as its rule says; only STATUS_READ shows them. -/
def Obligations.CommandsIgnoreARecordedFault : Prop :=
  ∀ (i : Instr) (s t : State) (st : Byte), st.extractLsb' 0 3 = s.status.extractLsb' 0 3 → exec i s = .next t →
    ∃ t', exec i { s with status := st } = .next t' ∧
      t' = { t with status := t'.status, result := t'.result } ∧
      (i ≠ .statusRead → t'.result = t.result) ∧
      t'.status.extractLsb' 0 3 = t.status.extractLsb' 0 3

/-- R245, R32, R33: FAULT and the first FAULT_CAUSE stay through every command; the reset input clears them. -/
def Obligations.OnlyResetClearsAFault : Prop :=
  (∀ (s t : State) (w : Word) (rest : List HostInput), s.inbox = .command w :: rest → s.status.getLsbD 3 = true →
    step s = .next t → t.status.getLsbD 3 = true ∧ t.status.extractLsb' 4 3 = s.status.extractLsb' 4 3) ∧
  (∀ (s : State) (rest : List HostInput), s.inbox = .reset :: rest →
    ∃ t, step s = .next t ∧ t.status.getLsbD 3 = false ∧ t.status.extractLsb' 4 3 = 0)

/-- A run of command words from an unfaulted state ends well exactly when no word of it raises a fault (R248,
70_reset_and_hazards.md R283). -/
def Obligations.RunEndsWellIffNothingFaults : Prop :=
  ∀ (ws : List Word) (s : State), s.faulted = false → endsWell (ws.map .command) s = neverFaults ws s

/-! ## Frame commands (40_frame.md) -/

/-- R111: FRAME_CLEAR zeroes every row and nothing else but result. -/
def Obligations.FrameClearZeroesEveryRow : Prop :=
  ∀ s : State, exec .frameClear s = .next { s with frame := Vector.replicate 8 0x00, result := 0 }

/-- R112: FRAME_GET returns the pixel, bit 7 - col of its row; out of range it returns 0 and sets OOR_SEEN. -/
def Obligations.FrameGetReadsThePixel : Prop :=
  (∀ (row col : Byte) (r c : Fin 8) (s : State), row.toInt = r.val → col.toInt = c.val →
    exec (.frameGet row col) s = .next { s with result := if s.frame[r].getLsbD (7 - c.val) then 1 else 0 }) ∧
  (∀ (row col : Byte) (s : State), ¬ BothInRange row col →
    exec (.frameGet row col) s = .next { s with status := s.status ||| 0x04, result := 0 })

/-- R113: FRAME_SET writes the one pixel; out of range it changes no pixel and sets OOR_SEEN. -/
def Obligations.FrameSetWritesOnePixel : Prop :=
  (∀ (row col v : Byte) (r c : Fin 8) (s : State), row.toInt = r.val → col.toInt = c.val →
    ∃ t, exec (.frameSet row col v) s = .next t ∧ PixelWritten r c (v.getLsbD 0) s t) ∧
  (∀ (row col v : Byte) (s : State), ¬ BothInRange row col →
    exec (.frameSet row col v) s = .next { s with status := s.status ||| 0x04, result := 0 })

/-- R114: FRAME_SET_RAW faults on a row out of range whatever the column; else it writes the pixel, or sets OOR_SEEN for a
column out of range. With the row in range it does what FRAME_SET does, which R114 marks as derived from R113. -/
def Obligations.FrameSetRawGuardsTheRow : Prop :=
  (∀ (row col v : Byte) (s : State), (row.toInt < 0 ∨ 7 < row.toInt) →
    exec (.frameSetRaw row col v) s = .next { s with status := recordFault .rawRowRange s.status, result := 0 }) ∧
  (∀ (row col v : Byte) (r c : Fin 8) (s : State), row.toInt = r.val → col.toInt = c.val →
    ∃ t, exec (.frameSetRaw row col v) s = .next t ∧ PixelWritten r c (v.getLsbD 0) s t) ∧
  (∀ (row col v : Byte) (s : State), 0 ≤ row.toInt → row.toInt ≤ 7 → (col.toInt < 0 ∨ 7 < col.toInt) →
    exec (.frameSetRaw row col v) s = .next { s with status := s.status ||| 0x04, result := 0 }) ∧
  (∀ (row col v : Byte) (s : State), 0 ≤ row.toInt → row.toInt ≤ 7 →
    exec (.frameSetRaw row col v) s = exec (.frameSet row col v) s)

/-- R115, R116: a row access moves all 8 bits of the row that A[2:0] names, in the stored order, and no other row. -/
def Obligations.RowAccessesMoveWholeRows : Prop :=
  ∀ (row data : Byte) (r : Fin 8) (s : State), (row.extractLsb' 0 3).toNat = r.val →
    exec (.frameRowRead row) s = .next { s with result := s.frame[r] } ∧
    ∃ t, exec (.frameRowWrite row data) s = .next t ∧ t.frame[r] = data ∧
      (∀ r' : Fin 8, r' ≠ r → t.frame[r'] = s.frame[r']) ∧ t = { s with frame := t.frame, result := 0 }

/-- The round trip of R117, which the spec marks as derived from R112 and R113: FRAME_SET then FRAME_GET returns the bit. -/
def Obligations.SetThenGetReturnsTheBit : Prop :=
  ∀ (row col v : Byte) (s : State), BothInRange row col → v.toNat < 2 →
    ∃ t, execAll [.frameSet row col v, .frameGet row col] s = .next t ∧ t.result = v ∧ t.status = s.status ∧
      ∀ r c : Fin 8, ¬(row.toInt = r.val ∧ col.toInt = c.val) → pixel t r c = pixel s r c

/-- The no-corruption law of R118, which the spec marks as derived: out of range nothing of the Frame changes. -/
def Obligations.OutOfRangeNeverChangesThePixels : Prop :=
  ∀ (row col v : Byte) (s : State), ¬ BothInRange row col →
    ∃ t1 t2 t3, exec (.frameGet row col) s = .next t1 ∧ exec (.frameSet row col v) s = .next t2 ∧
      exec (.frameSetRaw row col v) s = .next t3 ∧ t1.frame = s.frame ∧ t2.frame = s.frame ∧ t3.frame = s.frame ∧
      t1.result = 0 ∧ ((row.toInt < 0 ∨ 7 < row.toInt) → t3.status.getLsbD 3 = true)

/-- The stamping law of R119, which the spec marks as derived from R113: a stamp gives its in-range points the value v and
leaves every other pixel, so ones accumulate and only an explicit 0 clears. -/
def Obligations.StampingSetsItsPointsOnly : Prop :=
  ∀ (v : Byte) (points : List (Byte × Byte)) (s : State),
    ∃ t, execAll (frameStamp v points) s = .next t ∧
      t = { s with frame := t.frame, status := t.status, result := t.result } ∧
      ∀ r c : Fin 8, pixel t r c =
        if points.any (fun p => p.1.toInt == (r.val : Int) && p.2.toInt == (c.val : Int)) then v.getLsbD 0 else pixel s r c

/-- The host's pseudo-commands on the canvas do what R91, R92, R97 and R98 say of them. -/
def Obligations.CanvasPseudoCommandsExpand : Prop :=
  (∀ s : State, execAll canvasClear s =
    .next { s with frame := Vector.replicate 8 0x00, layer := Vector.replicate 4 0xFF, result := 0 }) ∧
  (∀ (index : Byte) (k : Fin 4) (s : State), index.toInt = k.val →
    ∃ t, execAll (layerBlank index) s = .next t ∧ t.layer[k].toInt = -1 ∧
      ∀ k' : Fin 4, k' ≠ k → t.layer[k'] = s.layer[k']) ∧
  (∀ (rows : Vector Byte 8) (s : State), execAll (frameLoad rows) s = .next { s with frame := rows, result := 0 }) ∧
  (∀ (row mask : Byte) (r : Fin 8) (s : State), row.toNat = r.val →
    frameOrRow row mask s = .next { s with frame := s.frame.set r (s.frame[r] ||| mask), result := 0 })

/-! ## Layer commands (41_layer.md) -/

/-- R143, R145: LAYER_CLEAR puts -1 in every slot; LAYER_SET stores any raw value unencoded, and out of range changes no
slot and sets OOR_SEEN. -/
def Obligations.LayerWritesStoreRawValues : Prop :=
  (∀ s : State, ∃ t, exec .layerClear s = .next t ∧ (∀ k : Fin 4, t.layer[k].toInt = -1) ∧
    t = { s with layer := t.layer, result := 0 }) ∧
  (∀ (index raw : Byte) (k : Fin 4) (s : State), index.toInt = k.val →
    ∃ t, exec (.layerSet index raw) s = .next t ∧ t.layer[k] = raw ∧
      (∀ k' : Fin 4, k' ≠ k → t.layer[k'] = s.layer[k']) ∧ t = { s with layer := t.layer, result := 0 }) ∧
  (∀ (index raw : Byte) (s : State), (index.toInt < 0 ∨ 3 < index.toInt) →
    exec (.layerSet index raw) s = .next { s with status := s.status ||| 0x04, result := 0 })

/-- R140, R142, R144: LAYER_GET returns blank for a negative raw value, the table's entry for 0..9, and faults above 9; an
index out of range reads no slot, returns blank and sets OOR_SEEN. -/
def Obligations.LayerGetEncodesTheSlot : Prop :=
  (∀ (index : Byte) (k : Fin 4) (s : State), index.toInt = k.val → s.layer[k].toInt < 0 →
    exec (.layerGet index) s = .next { s with result := 0 }) ∧
  (∀ (index : Byte) (k : Fin 4) (d : Fin 10) (s : State), index.toInt = k.val → s.layer[k].toInt = d.val →
    exec (.layerGet index) s = .next { s with result := (digitTable s.cfg.digits)[d] }) ∧
  (∀ (index : Byte) (k : Fin 4) (s : State), index.toInt = k.val → 9 < s.layer[k].toInt →
    exec (.layerGet index) s = .next { s with status := recordFault .digitRange s.status, result := 0 }) ∧
  (∀ (index : Byte) (s : State), (index.toInt < 0 ∨ 3 < index.toInt) →
    exec (.layerGet index) s = .next { s with status := s.status ||| 0x04, result := 0 })

/-- The contents of DIGIT_TABLE (R141): entries 0 and 8 are fixed and bit 7 of every entry is 0 whatever the parameter; the
last clause's entries 1 to 7 and 9 are defaults PRESUMED from general knowledge (log entry 5). -/
def Obligations.DigitTableHasTheStatedEntries : Prop :=
  (∀ t : DigitTable, (digitTable t)[0] = 0x3F ∧ (digitTable t)[8] = 0x7F ∧
    ∀ d : Fin 10, (digitTable t)[d].getLsbD 7 = false) ∧
  digitTable State.reset.cfg.digits = #v[0x3F, 0x06, 0x5B, 0x4F, 0x66, 0x6D, 0x7D, 0x07, 0x7F, 0x6F]

/-- R146: what a read encodes is the value the slot holds at the time of the read, whatever stood there before, and only a
read of a value above 9 faults. -/
def Obligations.EncodingHappensAtReadTime : Prop :=
  ∀ (index old raw : Byte) (k : Fin 4) (s : State), index.toInt = k.val →
    ∃ t, execAll [.layerSet index old, .layerSet index raw, .layerGet index] s = .next t ∧ t.layer[k] = raw ∧
      (raw.toInt ≤ 9 → t.result = encodedByte s.cfg.digits raw ∧ t.status = s.status) ∧
      (9 < raw.toInt → t.result = 0 ∧ t.status.getLsbD 3 = true)

/-! ## Matrix bus (42_matrix_bus.md) -/

/-- `rev8(b)[i] = b[7 - i]`, with the source's two examples (00_scope.md R13). -/
def Obligations.RowReversalMirrorsBits : Prop :=
  (∀ (b : Byte) (i : Fin 8), (rev8 b).getLsbD i.val = b.getLsbD (7 - i.val)) ∧
  rev8 0b10000001 = 0b10000001 ∧ rev8 0b10011101 = 0b10111001

/-- R160, R162: MB_XFER emits LOAD low, the 16 bits of {addr, data} MSB first with a clock pulse each, LOAD high, and
leaves CLK 0, LOAD 1 and DIN at data[0]. -/
def Obligations.MbXferSendsOneTransaction : Prop :=
  ∀ (addr data : Byte) (s : State),
    exec (.mbXfer addr data) s = .next { s with
      mb := { din := data.getLsbD 0, clk := false, load := true }
      trace := s.trace ++ ([.mbLoad false] ++
        ([15, 14, 13, 12, 11, 10, 9, 8, 7, 6, 5, 4, 3, 2, 1, 0].flatMap fun i =>
          [.mbDin ((addr ++ data).getLsbD i), .mbClk true, .mbClk false]) ++ [.mbLoad true])
      result := 0 }

/-- R163: MB_INIT sends its 13 transactions in the fixed order, with the parameters' addresses and values, and changes
neither Frame nor anything else but the matrix lines. -/
def Obligations.MbInitSendsTheStartupSequence : Prop :=
  ∀ s : State,
    exec .mbInit s = .next { s with
      mb := { din := false, clk := false, load := true }
      trace := s.trace ++
        ([(s.cfg.mbRegDecode, s.cfg.mbInitDecodeOff), (s.cfg.mbRegDispTest, s.cfg.mbInitDispTestOff),
          (s.cfg.mbRegScanLimit, s.cfg.mbInitScanAll), (s.cfg.mbRegShutdown, s.cfg.mbInitRun),
          (s.cfg.mbRegIntensity, s.cfg.mbDefaultIntensity.setWidth 8),
          (0x01, 0), (0x02, 0), (0x03, 0), (0x04, 0), (0x05, 0), (0x06, 0), (0x07, 0), (0x08, 0)] :
          List (Byte × Byte)).flatMap mbWordEvents
      result := 0 }

/-- R164: MB_RENDER sends the eight rows, bit-reversed, to addresses 0x01..0x08 in ascending order. -/
def Obligations.MbRenderSendsTheRowsReversed : Prop :=
  ∀ s : State,
    exec .mbRender s = .next { s with
      mb := { din := s.frame[7].getLsbD 7, clk := false, load := true }
      trace := s.trace ++
        ([(0x01, s.frame[0].reverse), (0x02, s.frame[1].reverse), (0x03, s.frame[2].reverse), (0x04, s.frame[3].reverse),
          (0x05, s.frame[4].reverse), (0x06, s.frame[5].reverse), (0x07, s.frame[6].reverse), (0x08, s.frame[7].reverse)] :
          List (Byte × Byte)).flatMap mbWordEvents
      result := 0 }

/-- R166: MB_BRIGHTNESS sends one transaction with the intensity 1 + floor(14 p / 100), and above 100 faults and sends
nothing. -/
def Obligations.MbBrightnessSendsTheIntensity : Prop :=
  (∀ (p : Byte) (s : State), p.toNat ≤ 100 →
    exec (.mbBrightness p) s = .next { s with
      mb := { din := (BitVec.ofNat 8 (1 + 14 * p.toNat / 100)).getLsbD 0, clk := false, load := true }
      trace := s.trace ++ mbWordEvents (s.cfg.mbRegIntensity, BitVec.ofNat 8 (1 + 14 * p.toNat / 100))
      result := 0 }) ∧
  (∀ (p : Byte) (s : State), 100 < p.toNat →
    exec (.mbBrightness p) s = .next { s with status := recordFault .percentRange s.status, result := 0 })

/-- R165: the intensity scale is 1 + floor(14 p / 100), maps 0 to 1, 50 to 8 and 100 to 15, is monotonic and stays in 1..15. -/
def Obligations.MatrixIntensityScale : Prop :=
  (∀ p : Byte, p.toNat ≤ 100 →
    (mbIntensity p).toNat = 1 + 14 * p.toNat / 100 ∧ 1 ≤ (mbIntensity p).toNat ∧ (mbIntensity p).toNat ≤ 15) ∧
  (∀ p q : Byte, p.toNat ≤ q.toNat → q.toNat ≤ 100 → (mbIntensity p).toNat ≤ (mbIntensity q).toNat) ∧
  mbIntensity 0 = 1 ∧ mbIntensity 50 = 8 ∧ mbIntensity 100 = 15

/-- DIN moves only while CLK is 0, so it is stable at both clock edges, in every command and from every state with CLK low
(R161, which the spec marks as derived from R160). -/
def Obligations.DinMovesOnlyWhileTheClockIsLow : Prop :=
  ∀ (i : Instr) (s t : State) (es : List Event), s.mb.clk = false → exec i s = .next t → t.trace = s.trace ++ es →
    dinStable s.mb es = true ∧ t.mb.clk = false

/-- A target that samples at either clock edge latches from MB_XFER, MB_INIT and MB_BRIGHTNESS exactly the words they send,
from every state whose matrix lines rest at CLK 0 and LOAD 1 (20_memory.md R66, 30_encoding.md R99, R161). The target is the
model's simulated one (log entry 16, DEDUCED); MB_RENDER is MatrixTargetReceivesTheFrame. -/
def Obligations.MatrixTargetLatchesTheWords : Prop :=
  ∀ (edge : ClockEdge) (s : State), s.mb.clk = false → s.mb.load = true →
    (∀ addr data : Byte, ∃ t es, exec (.mbXfer addr data) s = .next t ∧ t.trace = s.trace ++ es ∧
      matrixWords edge s.mb es = [mbWordBits (addr, data)]) ∧
    (∃ t es, exec .mbInit s = .next t ∧ t.trace = s.trace ++ es ∧
      matrixWords edge s.mb es = (mbInitWords s.cfg).map mbWordBits) ∧
    (∀ p : Byte, p.toNat ≤ 100 → ∃ t es, exec (.mbBrightness p) s = .next t ∧ t.trace = s.trace ++ es ∧
      matrixWords edge s.mb es = [mbWordBits (s.cfg.mbRegIntensity, mbIntensity p)])

/-- A target that samples at either clock edge latches from MB_RENDER exactly the Frame: for row r, in ascending order, the
address r + 1 MSB first, then pixel (r, 7) down to pixel (r, 0), so that its data bit c is pixel (r, c)
(20_memory.md R68, 42_matrix_bus.md R164, R169). The target is the model's simulated one (log entry 16, DEDUCED). -/
def Obligations.MatrixTargetReceivesTheFrame : Prop :=
  ∀ (edge : ClockEdge) (s : State), s.mb.clk = false → s.mb.load = true →
    ∃ t es, exec .mbRender s = .next t ∧ t.trace = s.trace ++ es ∧
      matrixWords edge s.mb es =
        ([0, 1, 2, 3, 4, 5, 6, 7] : List (Fin 8)).map fun r =>
          ([7, 6, 5, 4, 3, 2, 1, 0].map (BitVec.ofNat 8 (r.val + 1)).getLsbD) ++
            ([7, 6, 5, 4, 3, 2, 1, 0] : List (Fin 8)).map (pixel s r)

/-! ## Segment bus (43_segment_bus.md) -/

/-- R191, R192, R196, R197: SEG_START drives SDA low; SEG_STOP drives SDA low, releases SCL, releases SDA, and leaves both
released. -/
def Obligations.SegStartAndStopEmitTheirConditions : Prop :=
  ∀ s : State,
    exec .segStart s = .next { s with
      sb := { s.sb with sdaOe := true }, trace := s.trace ++ [.sbDrive .sda, .sbDelay], result := 0 } ∧
    exec .segStop s = .next { s with
      sb := { sclOe := false, sdaOe := false }
      trace := s.trace ++ [.sbDrive .sda, .sbDelay, .sbRelease .scl, .sbDelay, .sbRelease .sda, .sbDelay]
      result := 0 }

/-- R193, R194, R195, R198: SEG_WRITE sends eight bits LSB first and one acknowledge cycle, drives SDA low again on a high
level, records the level in ACK_LAST and NACK_SEEN, and returns 1 exactly on a low level, whatever level is drawn. -/
def Obligations.SegWriteSendsOneByte : Prop :=
  ∀ (b : Byte) (s : State) (lvl : Bool), nextDraw s = lvl →
    exec (.segWrite b) s = .next { s with
      sb := { sclOe := true, sdaOe := lvl }
      trace := s.trace ++
        ([0, 1, 2, 3, 4, 5, 6, 7].flatMap fun k =>
          [.sbDrive .scl, if b.getLsbD k then .sbRelease .sda else .sbDrive .sda, .sbDelay,
           .sbRelease .scl, .sbDelay, .sbDrive .scl, .sbDelay]) ++
        [.sbRelease .sda, .sbDelay, .sbRelease .scl, .sbDelay, .sbDrive .scl, .sbDelay, .sbSense lvl] ++
        (if lvl then [.sbDrive .sda] else []) ++ [.sbDelay]
      status := if lvl then (s.status &&& 0xFE) ||| 0x02 else s.status ||| 0x01
      draws := s.draws.tail
      drawCount := s.drawCount + 1
      result := if lvl then 0 else 1 }

/-- Every level the target may give is admitted: with level d laid down for the next sense, the sensed level is d
(00_scope.md R12: "the target's level, any bit"; the list of laid-down levels is the model's, log entry 8). -/
def Obligations.EverySensedLevelIsPossible : Prop :=
  ∀ (b : Byte) (s : State) (d : Bool),
    ∃ t es, exec (.segWrite b) { s with draws := d :: s.draws } = .next t ∧ t.draws = s.draws ∧
      t.trace = s.trace ++ es ∧ .sbSense d ∈ es ∧ .sbSense (!d) ∉ es ∧ (t.result = 1 ↔ d = false)

/-- R199, R200: with no slot above 9, SEG_RENDER sends 0x40 in a frame of its own, then 0xC0 and the four digit bytes in
another, whatever is acknowledged, and leaves both lines released; with a slot above 9 it faults and emits nothing. -/
def Obligations.SegRenderSendsTheLayer : Prop :=
  (∀ (s : State) (levels : List Bool), DigitsReadable s → nextDraws 6 s = levels →
    exec .segRender s = .next { s with
      sb := { sclOe := false, sdaOe := false }
      trace := s.trace ++ (sbStartEvents ++ sbBytesEvents ([0x40].zip levels) ++ sbStopEvents) ++
        (sbStartEvents ++ sbBytesEvents ((0xC0 :: digitBytes s).zip levels.tail) ++ sbStopEvents)
      status := statusAfterAcks levels s.status
      draws := s.draws.drop 6
      drawCount := s.drawCount + 6
      result := 0 }) ∧
  (∀ s : State, (∃ k : Fin 4, 9 < s.layer[k].toInt) →
    exec .segRender s = .next { s with status := recordFault .digitRange s.status, result := 0 })

/-- After acknowledge cycles that sensed these levels, ACK_LAST tells the last, NACK_SEEN whether any was high or it was set
before, and the other fields are as before (R195). -/
def Obligations.AcknowledgesAccumulateInStatus : Prop :=
  ∀ (levels : List Bool) (last : Bool) (st : Byte),
    let st' := statusAfterAcks (levels ++ [last]) st
    st'.getLsbD 0 = !last ∧ st'.getLsbD 1 = (st.getLsbD 1 || levels.any id || last) ∧
      ∀ j, 2 ≤ j → st'.getLsbD j = st.getLsbD j

/-- R202: SEG_BRIGHTNESS sends one framed byte 0x80 + ((en << SB_ENABLE_BIT) | floor(7 p / 100)), and above 100 faults and
emits nothing. -/
def Obligations.SegBrightnessSendsTheControlByte : Prop :=
  (∀ (p en : Byte) (s : State) (lvl : Bool), p.toNat ≤ 100 → nextDraw s = lvl →
    exec (.segBrightness p en) s = .next { s with
      sb := { sclOe := false, sdaOe := false }
      trace := s.trace ++ (sbStartEvents ++
        sbByteEvents (0x80 + (((if en.getLsbD 0 then 1#8 else 0#8) <<< s.cfg.sbEnableBit.val) |||
          BitVec.ofNat 8 (7 * p.toNat / 100))) lvl ++ sbStopEvents)
      status := if lvl then (s.status &&& 0xFE) ||| 0x02 else s.status ||| 0x01
      draws := s.draws.tail
      drawCount := s.drawCount + 1
      result := 0 }) ∧
  (∀ (p en : Byte) (s : State), 100 < p.toNat →
    exec (.segBrightness p en) s = .next { s with status := recordFault .percentRange s.status, result := 0 })

/-- The control byte with the enable bit at its default place 3, PRESUMED from general knowledge (log entry 6), is
0x80 + {0000, en, level[2:0]}, and the level is floor(7 p / 100) in 0..7 (R201). -/
def Obligations.SegmentLevelScale : Prop :=
  (∀ p : Byte, p.toNat ≤ 100 → (sbLevel p).toNat = 7 * p.toNat / 100 ∧ (sbLevel p).toNat ≤ 7) ∧
  (∀ (cfg : Config) (p : Byte) (en : Bool), cfg.sbEnableBit = 3 → p.toNat ≤ 100 →
    displayControl cfg p en = 0x80#8 + (0#4 ++ BitVec.ofBool en ++ (sbLevel p).extractLsb' 0 3)) ∧
  State.reset.cfg.sbEnableBit = 3

/-- R203: SEG_CONFIG sets segctl.SEP to A[0], keeps the other bits of segctl, and emits no bus event. -/
def Obligations.SegConfigSetsTheSeparator : Prop :=
  ∀ (sep : Byte) (s : State),
    exec (.segConfig sep) s = .next { s with
      segctl := if sep.getLsbD 0 then s.segctl ||| 0x01 else s.segctl &&& 0xFE, result := 0 }

/-- At the eight rises of SCL in the data phase the block presents the byte's bits, least significant first (R204, which the
spec marks as derived; 30_encoding.md R100). -/
def Obligations.SegWritePresentsTheBitsLsbFirst : Prop :=
  ∀ (b : Byte) (s : State),
    ∃ t es, exec (.segWrite b) s = .next t ∧ t.trace = s.trace ++ es ∧
      (presentedBits s.sb es).take 8 = [0, 1, 2, 3, 4, 5, 6, 7].map b.getLsbD

/-- A segment target that watches the lines receives from SEG_RENDER, started with both lines released, exactly the frame of
0x40 and the frame of 0xC0 and the four digit bytes, and from SEG_BRIGHTNESS the frame of its control byte, whatever it
acknowledges; both leave the lines released again (30_encoding.md R100, R101; 70_reset_and_hazards.md R277). The target is
the model's simulated one (log entry 16, DEDUCED). -/
def Obligations.SegmentTargetReceivesTheFrames : Prop :=
  ∀ s : State, s.segmentIdle = true →
    (DigitsReadable s → ∃ t es, exec .segRender s = .next t ∧ t.trace = s.trace ++ es ∧
      segmentFrames s.sb es = [[0x40], 0xC0 :: digitBytes s] ∧ t.segmentIdle = true) ∧
    (∀ p en : Byte, p.toNat ≤ 100 → ∃ t es, exec (.segBrightness p en) s = .next t ∧ t.trace = s.trace ++ es ∧
      segmentFrames s.sb es = [[displayControl s.cfg p (en.getLsbD 0)]] ∧ t.segmentIdle = true)

/-- The event counts of R282 and R205, which the spec marks as derived: a command that does not fault emits its number of
events, one more for each high level sensed, and its number of SB_DELAY events. One that faults emits none: that is
60_exceptions.md R243, marked as derived too, followed over the counts of R282 (log entry 9, DEDUCED). -/
def Obligations.EventCountsAreAsListed : Prop :=
  ∀ (i : Instr) (s t : State) (es : List Event), exec i s = .next t → t.trace = s.trace ++ es →
    (faultOf i s = none → es.length = eventCount i + es.count (.sbSense true) ∧ delayCount es = delayEventCount i) ∧
    (faultOf i s ≠ none → es = [])

/-! ## Status commands (44_status.md) -/

/-- R230, R231: STATUS_READ returns the status with bit 7 as 0 and clears nothing; STATUS_CLEAR clears NACK_SEEN and
OOR_SEEN and keeps the rest. -/
def Obligations.StatusCommandsReadAndClear : Prop :=
  ∀ s : State,
    exec .statusRead s = .next { s with result := s.status &&& 0x7F } ∧
    exec .statusClear s = .next { s with status := s.status &&& 0xF9, result := 0 }

/-- Repeating a read with no write between changes nothing more: FRAME_GET, FRAME_ROW_READ, LAYER_GET and STATUS_READ
(20_memory.md R72). -/
def Obligations.RepeatedReadsChangeNothing : Prop :=
  ∀ (i : Instr) (s t : State),
    ((∃ r c, i = .frameGet r c) ∨ (∃ r, i = .frameRowRead r) ∨ (∃ k, i = .layerGet k) ∨ i = .statusRead) →
    exec i s = .next t → exec i t = .next t

/-! ## Ticks (95_test_vectors.md H1; 70_reset_and_hazards.md R274, R279) -/

/-- What both targets receive in a tick depends on the tick's brightness and writes alone, never on what earlier ticks left:
from any two states with the same parameters and separator, idle segment lines and resting matrix lines, the same tick gives
both targets the same words and frames, and leaves the same Frame and Layer, whatever the acknowledges (H1, R279). The targets
are the model's simulated ones (log entry 16, DEDUCED). -/
def Obligations.TickShowsOnlyItsOwnWrites : Prop :=
  ∀ (edge : ClockEdge) (p : Byte) (writes : List Instr) (s1 s2 : State),
    (∀ i ∈ writes, isCanvasWrite i = true) → s1.cfg = s2.cfg → s1.segctl.getLsbD 0 = s2.segctl.getLsbD 0 →
    s1.segmentIdle = true → s2.segmentIdle = true →
    s1.mb.clk = false → s1.mb.load = true → s2.mb.clk = false → s2.mb.load = true →
    ∃ t1 t2 es1 es2, execAll (tick p writes) s1 = .next t1 ∧ execAll (tick p writes) s2 = .next t2 ∧
      t1.trace = s1.trace ++ es1 ∧ t2.trace = s2.trace ++ es2 ∧
      matrixWords edge s1.mb es1 = matrixWords edge s2.mb es2 ∧
      segmentFrames s1.sb es1 = segmentFrames s2.sb es2 ∧
      t1.frame = t2.frame ∧ t1.layer = t2.layer
end

