-- ==== Sys2Proof/Laws/Assembler.lean ====
section
/-! SUPPORT. What the assembler's operand bytes satisfy. -/

namespace Sys2Proof.Machine

/-- A byte lies in the range of its operand's kind (30_encoding.md R90). -/
def OperandKind.fits (k : OperandKind) (b : Byte) : Prop :=
  (k = .bit → b.toNat < 2) ∧ (k = .row3 → b.toNat < 8)

/-- A literal that passes the range check gives a byte that fits. -/
theorem operandByte_fits (k : OperandKind) (l : Literal) (b : Byte) (h : operandByte k l = some b) : k.fits b := by
  constructor <;> rintro rfl <;> cases l <;> simp [operandByte] at h <;> obtain ⟨h1, rfl⟩ := h <;>
    simp [BitVec.toNat_ofInt] <;> omega

/-- The operand bytes of a command fit their kinds, one by one. -/
theorem operandBytes_fits (ks : List OperandKind) (ls : List (Option Literal)) (bs : List Byte)
    (h : operandBytes ks ls = .ok bs) : List.Forall₂ OperandKind.fits ks bs := by
  induction ks generalizing ls bs with
  | nil =>
    cases ls <;> simp [operandBytes] at h
    subst h
    exact .nil
  | cons k ks ih =>
    rcases ls with _ | ⟨_ | l, ls⟩
    · simp [operandBytes] at h
    · simp [operandBytes] at h
    · unfold operandBytes at h
      split at h
      · simp at h
      · rename_i b hb
        split at h
        · rename_i bs' hbs
          simp at h
          subst h
          exact .cons (operandByte_fits _ _ _ hb) (ih _ _ hbs)
        · simp at h

end Sys2Proof.Machine
end

