-- ==== Sys2Proof/Laws/State.lean ====
section
/-! SUPPORT. One lemma per field and update of the state, and the forms of the two ends of a command. -/

namespace Sys2Proof.Machine

/-! ## Updates of one field by name -/

theorem finish_eq (v : Byte) (s : State) : finish v s = .next { s with result := v } := rfl

theorem raise_eq (c : FaultCause) (s : State) : raise c s = .next (raiseFault c s) := rfl

/-! ## `emit` -/

@[simp] theorem emit_cfg (e : Event) (s : State) : (emit e s).cfg = s.cfg := rfl
@[simp] theorem emit_frame (e : Event) (s : State) : (emit e s).frame = s.frame := rfl
@[simp] theorem emit_layer (e : Event) (s : State) : (emit e s).layer = s.layer := rfl
@[simp] theorem emit_result (e : Event) (s : State) : (emit e s).result = s.result := rfl
@[simp] theorem emit_status (e : Event) (s : State) : (emit e s).status = s.status := rfl
@[simp] theorem emit_segctl (e : Event) (s : State) : (emit e s).segctl = s.segctl := rfl
@[simp] theorem emit_mb (e : Event) (s : State) : (emit e s).mb = s.mb := rfl
@[simp] theorem emit_sb (e : Event) (s : State) : (emit e s).sb = s.sb := rfl
@[simp] theorem emit_trace (e : Event) (s : State) : (emit e s).trace = s.trace ++ [e] := rfl
@[simp] theorem emit_inbox (e : Event) (s : State) : (emit e s).inbox = s.inbox := rfl
@[simp] theorem emit_draws (e : Event) (s : State) : (emit e s).draws = s.draws := rfl
@[simp] theorem emit_drawCount (e : Event) (s : State) : (emit e s).drawCount = s.drawCount := rfl

/-! ## `setOor` -/

@[simp] theorem setOor_cfg (s : State) : (setOor s).cfg = s.cfg := rfl
@[simp] theorem setOor_frame (s : State) : (setOor s).frame = s.frame := rfl
@[simp] theorem setOor_layer (s : State) : (setOor s).layer = s.layer := rfl
@[simp] theorem setOor_result (s : State) : (setOor s).result = s.result := rfl
@[simp] theorem setOor_status (s : State) : (setOor s).status = recordOor s.status := rfl
@[simp] theorem setOor_segctl (s : State) : (setOor s).segctl = s.segctl := rfl
@[simp] theorem setOor_mb (s : State) : (setOor s).mb = s.mb := rfl
@[simp] theorem setOor_sb (s : State) : (setOor s).sb = s.sb := rfl
@[simp] theorem setOor_trace (s : State) : (setOor s).trace = s.trace := rfl
@[simp] theorem setOor_inbox (s : State) : (setOor s).inbox = s.inbox := rfl
@[simp] theorem setOor_draws (s : State) : (setOor s).draws = s.draws := rfl
@[simp] theorem setOor_drawCount (s : State) : (setOor s).drawCount = s.drawCount := rfl

/-! ## `raiseFault` -/

@[simp] theorem raiseFault_cfg (c : FaultCause) (s : State) : (raiseFault c s).cfg = s.cfg := rfl
@[simp] theorem raiseFault_frame (c : FaultCause) (s : State) : (raiseFault c s).frame = s.frame := rfl
@[simp] theorem raiseFault_layer (c : FaultCause) (s : State) : (raiseFault c s).layer = s.layer := rfl
@[simp] theorem raiseFault_result (c : FaultCause) (s : State) : (raiseFault c s).result = 0x00 := rfl
@[simp] theorem raiseFault_status (c : FaultCause) (s : State) : (raiseFault c s).status = recordFault c s.status := rfl
@[simp] theorem raiseFault_segctl (c : FaultCause) (s : State) : (raiseFault c s).segctl = s.segctl := rfl
@[simp] theorem raiseFault_mb (c : FaultCause) (s : State) : (raiseFault c s).mb = s.mb := rfl
@[simp] theorem raiseFault_sb (c : FaultCause) (s : State) : (raiseFault c s).sb = s.sb := rfl
@[simp] theorem raiseFault_trace (c : FaultCause) (s : State) : (raiseFault c s).trace = s.trace := rfl
@[simp] theorem raiseFault_inbox (c : FaultCause) (s : State) : (raiseFault c s).inbox = s.inbox := rfl
@[simp] theorem raiseFault_draws (c : FaultCause) (s : State) : (raiseFault c s).draws = s.draws := rfl
@[simp] theorem raiseFault_drawCount (c : FaultCause) (s : State) : (raiseFault c s).drawCount = s.drawCount := rfl

/-! ## `writeRow` -/

@[simp] theorem writeRow_cfg (r : Fin 8) (v : Byte) (s : State) : (writeRow r v s).cfg = s.cfg := rfl
@[simp] theorem writeRow_frame (r : Fin 8) (v : Byte) (s : State) : (writeRow r v s).frame = s.frame.set r v := rfl
@[simp] theorem writeRow_layer (r : Fin 8) (v : Byte) (s : State) : (writeRow r v s).layer = s.layer := rfl
@[simp] theorem writeRow_result (r : Fin 8) (v : Byte) (s : State) : (writeRow r v s).result = s.result := rfl
@[simp] theorem writeRow_status (r : Fin 8) (v : Byte) (s : State) : (writeRow r v s).status = s.status := rfl
@[simp] theorem writeRow_segctl (r : Fin 8) (v : Byte) (s : State) : (writeRow r v s).segctl = s.segctl := rfl
@[simp] theorem writeRow_mb (r : Fin 8) (v : Byte) (s : State) : (writeRow r v s).mb = s.mb := rfl
@[simp] theorem writeRow_sb (r : Fin 8) (v : Byte) (s : State) : (writeRow r v s).sb = s.sb := rfl
@[simp] theorem writeRow_trace (r : Fin 8) (v : Byte) (s : State) : (writeRow r v s).trace = s.trace := rfl
@[simp] theorem writeRow_inbox (r : Fin 8) (v : Byte) (s : State) : (writeRow r v s).inbox = s.inbox := rfl
@[simp] theorem writeRow_draws (r : Fin 8) (v : Byte) (s : State) : (writeRow r v s).draws = s.draws := rfl
@[simp] theorem writeRow_drawCount (r : Fin 8) (v : Byte) (s : State) : (writeRow r v s).drawCount = s.drawCount := rfl

/-! ## `writeSlot` -/

@[simp] theorem writeSlot_cfg (i : Fin 4) (v : Byte) (s : State) : (writeSlot i v s).cfg = s.cfg := rfl
@[simp] theorem writeSlot_frame (i : Fin 4) (v : Byte) (s : State) : (writeSlot i v s).frame = s.frame := rfl
@[simp] theorem writeSlot_layer (i : Fin 4) (v : Byte) (s : State) : (writeSlot i v s).layer = s.layer.set i v := rfl
@[simp] theorem writeSlot_result (i : Fin 4) (v : Byte) (s : State) : (writeSlot i v s).result = s.result := rfl
@[simp] theorem writeSlot_status (i : Fin 4) (v : Byte) (s : State) : (writeSlot i v s).status = s.status := rfl
@[simp] theorem writeSlot_segctl (i : Fin 4) (v : Byte) (s : State) : (writeSlot i v s).segctl = s.segctl := rfl
@[simp] theorem writeSlot_mb (i : Fin 4) (v : Byte) (s : State) : (writeSlot i v s).mb = s.mb := rfl
@[simp] theorem writeSlot_sb (i : Fin 4) (v : Byte) (s : State) : (writeSlot i v s).sb = s.sb := rfl
@[simp] theorem writeSlot_trace (i : Fin 4) (v : Byte) (s : State) : (writeSlot i v s).trace = s.trace := rfl
@[simp] theorem writeSlot_inbox (i : Fin 4) (v : Byte) (s : State) : (writeSlot i v s).inbox = s.inbox := rfl
@[simp] theorem writeSlot_draws (i : Fin 4) (v : Byte) (s : State) : (writeSlot i v s).draws = s.draws := rfl
@[simp] theorem writeSlot_drawCount (i : Fin 4) (v : Byte) (s : State) : (writeSlot i v s).drawCount = s.drawCount := rfl

/-! ## `takeDraw` -/

@[simp] theorem takeDraw_cfg (s : State) : (takeDraw s).cfg = s.cfg := rfl
@[simp] theorem takeDraw_frame (s : State) : (takeDraw s).frame = s.frame := rfl
@[simp] theorem takeDraw_layer (s : State) : (takeDraw s).layer = s.layer := rfl
@[simp] theorem takeDraw_result (s : State) : (takeDraw s).result = s.result := rfl
@[simp] theorem takeDraw_status (s : State) : (takeDraw s).status = s.status := rfl
@[simp] theorem takeDraw_segctl (s : State) : (takeDraw s).segctl = s.segctl := rfl
@[simp] theorem takeDraw_mb (s : State) : (takeDraw s).mb = s.mb := rfl
@[simp] theorem takeDraw_sb (s : State) : (takeDraw s).sb = s.sb := rfl
@[simp] theorem takeDraw_trace (s : State) : (takeDraw s).trace = s.trace := rfl
@[simp] theorem takeDraw_inbox (s : State) : (takeDraw s).inbox = s.inbox := rfl
@[simp] theorem takeDraw_draws (s : State) : (takeDraw s).draws = s.draws.tail := rfl
@[simp] theorem takeDraw_drawCount (s : State) : (takeDraw s).drawCount = s.drawCount + 1 := rfl

/-! ## `mbSet` -/

@[simp] theorem mbSet_cfg (l : MbLine) (v : Bool) (s : State) : (mbSet l v s).cfg = s.cfg := rfl
@[simp] theorem mbSet_frame (l : MbLine) (v : Bool) (s : State) : (mbSet l v s).frame = s.frame := rfl
@[simp] theorem mbSet_layer (l : MbLine) (v : Bool) (s : State) : (mbSet l v s).layer = s.layer := rfl
@[simp] theorem mbSet_result (l : MbLine) (v : Bool) (s : State) : (mbSet l v s).result = s.result := rfl
@[simp] theorem mbSet_status (l : MbLine) (v : Bool) (s : State) : (mbSet l v s).status = s.status := rfl
@[simp] theorem mbSet_segctl (l : MbLine) (v : Bool) (s : State) : (mbSet l v s).segctl = s.segctl := rfl
@[simp] theorem mbSet_mb (l : MbLine) (v : Bool) (s : State) : (mbSet l v s).mb = s.mb.write l v := rfl
@[simp] theorem mbSet_sb (l : MbLine) (v : Bool) (s : State) : (mbSet l v s).sb = s.sb := rfl
@[simp] theorem mbSet_trace (l : MbLine) (v : Bool) (s : State) : (mbSet l v s).trace = s.trace ++ [mbEvent l v] := rfl
@[simp] theorem mbSet_inbox (l : MbLine) (v : Bool) (s : State) : (mbSet l v s).inbox = s.inbox := rfl
@[simp] theorem mbSet_draws (l : MbLine) (v : Bool) (s : State) : (mbSet l v s).draws = s.draws := rfl
@[simp] theorem mbSet_drawCount (l : MbLine) (v : Bool) (s : State) : (mbSet l v s).drawCount = s.drawCount := rfl

/-! ## `sbDriveLow` -/

@[simp] theorem sbDriveLow_cfg (l : SbLine) (s : State) : (sbDriveLow l s).cfg = s.cfg := rfl
@[simp] theorem sbDriveLow_frame (l : SbLine) (s : State) : (sbDriveLow l s).frame = s.frame := rfl
@[simp] theorem sbDriveLow_layer (l : SbLine) (s : State) : (sbDriveLow l s).layer = s.layer := rfl
@[simp] theorem sbDriveLow_result (l : SbLine) (s : State) : (sbDriveLow l s).result = s.result := rfl
@[simp] theorem sbDriveLow_status (l : SbLine) (s : State) : (sbDriveLow l s).status = s.status := rfl
@[simp] theorem sbDriveLow_segctl (l : SbLine) (s : State) : (sbDriveLow l s).segctl = s.segctl := rfl
@[simp] theorem sbDriveLow_mb (l : SbLine) (s : State) : (sbDriveLow l s).mb = s.mb := rfl
@[simp] theorem sbDriveLow_sb (l : SbLine) (s : State) : (sbDriveLow l s).sb = s.sb.write l true := rfl
@[simp] theorem sbDriveLow_trace (l : SbLine) (s : State) : (sbDriveLow l s).trace = s.trace ++ [.sbDrive l] := rfl
@[simp] theorem sbDriveLow_inbox (l : SbLine) (s : State) : (sbDriveLow l s).inbox = s.inbox := rfl
@[simp] theorem sbDriveLow_draws (l : SbLine) (s : State) : (sbDriveLow l s).draws = s.draws := rfl
@[simp] theorem sbDriveLow_drawCount (l : SbLine) (s : State) : (sbDriveLow l s).drawCount = s.drawCount := rfl

/-! ## `sbRelease` -/

@[simp] theorem sbRelease_cfg (l : SbLine) (s : State) : (sbRelease l s).cfg = s.cfg := rfl
@[simp] theorem sbRelease_frame (l : SbLine) (s : State) : (sbRelease l s).frame = s.frame := rfl
@[simp] theorem sbRelease_layer (l : SbLine) (s : State) : (sbRelease l s).layer = s.layer := rfl
@[simp] theorem sbRelease_result (l : SbLine) (s : State) : (sbRelease l s).result = s.result := rfl
@[simp] theorem sbRelease_status (l : SbLine) (s : State) : (sbRelease l s).status = s.status := rfl
@[simp] theorem sbRelease_segctl (l : SbLine) (s : State) : (sbRelease l s).segctl = s.segctl := rfl
@[simp] theorem sbRelease_mb (l : SbLine) (s : State) : (sbRelease l s).mb = s.mb := rfl
@[simp] theorem sbRelease_sb (l : SbLine) (s : State) : (sbRelease l s).sb = s.sb.write l false := rfl
@[simp] theorem sbRelease_trace (l : SbLine) (s : State) : (sbRelease l s).trace = s.trace ++ [.sbRelease l] := rfl
@[simp] theorem sbRelease_inbox (l : SbLine) (s : State) : (sbRelease l s).inbox = s.inbox := rfl
@[simp] theorem sbRelease_draws (l : SbLine) (s : State) : (sbRelease l s).draws = s.draws := rfl
@[simp] theorem sbRelease_drawCount (l : SbLine) (s : State) : (sbRelease l s).drawCount = s.drawCount := rfl

/-! ## `sbDelay` -/

@[simp] theorem sbDelay_cfg (s : State) : (sbDelay s).cfg = s.cfg := rfl
@[simp] theorem sbDelay_frame (s : State) : (sbDelay s).frame = s.frame := rfl
@[simp] theorem sbDelay_layer (s : State) : (sbDelay s).layer = s.layer := rfl
@[simp] theorem sbDelay_result (s : State) : (sbDelay s).result = s.result := rfl
@[simp] theorem sbDelay_status (s : State) : (sbDelay s).status = s.status := rfl
@[simp] theorem sbDelay_segctl (s : State) : (sbDelay s).segctl = s.segctl := rfl
@[simp] theorem sbDelay_mb (s : State) : (sbDelay s).mb = s.mb := rfl
@[simp] theorem sbDelay_sb (s : State) : (sbDelay s).sb = s.sb := rfl
@[simp] theorem sbDelay_trace (s : State) : (sbDelay s).trace = s.trace ++ [.sbDelay] := rfl
@[simp] theorem sbDelay_inbox (s : State) : (sbDelay s).inbox = s.inbox := rfl
@[simp] theorem sbDelay_draws (s : State) : (sbDelay s).draws = s.draws := rfl
@[simp] theorem sbDelay_drawCount (s : State) : (sbDelay s).drawCount = s.drawCount := rfl

end Sys2Proof.Machine
end

