-- ==== Sys2Proof/Laws/Buses.lean ====
section
/-! SUPPORT. One lemma per bus procedure: all it does to the state, in closed form. -/

namespace Sys2Proof.Machine

/-! ## The matrix bus -/

/-- A shifted bit leaves DIN at the bit and CLK low (42_matrix_bus.md R160). -/
theorem mbShiftBit_eq (v : Bool) (s : State) :
    mbShiftBit v s =
      { s with mb := { s.mb with din := v, clk := false }, trace := s.trace ++ mbBitEvents v } := by
  simp [mbShiftBit, mbSet, emit, mbEvent, MbLines.write, mbBitEvents]

/-- Shifted bits one after another. -/
theorem mbShiftBits_eq (bits : List Bool) (s : State) :
    bits.foldl (fun s v => mbShiftBit v s) s =
      { s with
        mb := if bits = [] then s.mb else { s.mb with din := bits.getLastD false, clk := false }
        trace := s.trace ++ bits.flatMap mbBitEvents } := by
  induction bits generalizing s with
  | nil => simp
  | cons v rest ih =>
    rw [List.foldl_cons, ih, mbShiftBit_eq]
    cases rest with
    | nil => simp
    | cons w ws => simp [List.getLast?_cons]

/-- A transaction: 50 events, and the lines at DIN = data[0], CLK 0, LOAD 1 (R160). -/
theorem mbTransaction_eq (addr data : Byte) (s : State) :
    mbTransaction addr data s =
      { s with
        mb := { din := data.getLsbD 0, clk := false, load := true }
        trace := s.trace ++ mbWordEvents (addr, data) } := by
  have h := mbShiftBits_eq (mbWordBits (addr, data)) (mbSet .load false s)
  have hlast : (mbWordBits (addr, data)).getLastD false = data.getLsbD 0 := by
    change (addr ++ data).getLsbD 0 = data.getLsbD 0
    rw [BitVec.getLsbD_append]
    rfl
  have hne : mbWordBits (addr, data) ≠ [] := by simp [mbWordBits, mbBitOrder]
  have hfold : mbBitOrder.foldl (fun s i => mbShiftBit ((addr ++ data).getLsbD i) s) (mbSet .load false s) =
      (mbWordBits (addr, data)).foldl (fun s v => mbShiftBit v s) (mbSet .load false s) := by
    rw [mbWordBits, List.foldl_map]
  unfold mbTransaction
  simp only
  rw [hfold, h, if_neg hne, hlast]
  simp [mbSet, emit, mbEvent, MbLines.write, mbWordEvents]

/-- Transactions one after another. -/
theorem mbTransactions_eq (words : List (Byte × Byte)) (s : State) :
    mbTransactions words s =
      { s with
        mb := if words = [] then s.mb
              else { din := (words.getLastD (0, 0)).2.getLsbD 0, clk := false, load := true }
        trace := s.trace ++ words.flatMap mbWordEvents } := by
  unfold mbTransactions
  induction words generalizing s with
  | nil => simp
  | cons w rest ih =>
    rw [List.foldl_cons, ih, mbTransaction_eq]
    cases rest with
    | nil => simp
    | cons x xs => simp [List.getLast?_cons]

/-! ## The segment bus -/

theorem sbStart_eq (s : State) :
    sbStart s = { s with sb := { s.sb with sdaOe := true }, trace := s.trace ++ sbStartEvents } := by
  simp [sbStart, sbDriveLow, sbDelay, emit, SbLines.write, sbStartEvents]

theorem sbStop_eq (s : State) :
    sbStop s = { s with sb := { sclOe := false, sdaOe := false }, trace := s.trace ++ sbStopEvents } := by
  simp [sbStop, sbDriveLow, sbRelease, sbDelay, emit, SbLines.write, sbStopEvents]

theorem sbDataBit_eq (v : Bool) (s : State) :
    sbDataBit v s = { s with sb := { sclOe := true, sdaOe := !v }, trace := s.trace ++ sbBitEvents v } := by
  cases v <;> simp [sbDataBit, sbDriveLow, sbRelease, sbDelay, emit, SbLines.write, sbBitEvents, sdaEvent]

/-- The data phase: the eight bits LSB first (43_segment_bus.md R193). -/
theorem sbDataBits_eq (b : Byte) (s : State) :
    sbDataBits 8 b s =
      { s with
        sb := { sclOe := true, sdaOe := !b.getLsbD 7 }
        trace := s.trace ++ (sbByteBits b).flatMap sbBitEvents } := by
  simp [sbDataBits, sbDataBit_eq, sbByteBits]

/-- The acknowledge cycle: the level is the draw, and SDA ends driven exactly on a high level (R194). -/
theorem sbAck_eq (s : State) :
    sbAck s =
      (nextDraw s,
       { s with
         sb := { sclOe := true, sdaOe := nextDraw s }
         trace := s.trace ++ sbAckEvents (nextDraw s)
         status := recordAck (nextDraw s) s.status
         draws := s.draws.tail
         drawCount := s.drawCount + 1 }) := by
  have hd : ∀ (l : SbLines) (es : List Event),
      nextDraw { s with sb := l, trace := es } = nextDraw s := fun _ _ => rfl
  cases h : nextDraw s <;>
    simp [sbAck, sbSense, sbRelease, sbDriveLow, sbDelay, emit, SbLines.write, takeDraw, ackStatus, wireLevel, hd, h,
      sbAckEvents]

/-- One byte and its acknowledge cycle (R193, R194, R195). -/
theorem sbWriteByte_eq (b : Byte) (s : State) :
    sbWriteByte b s =
      (nextDraw s,
       { s with
         sb := { sclOe := true, sdaOe := nextDraw s }
         trace := s.trace ++ sbByteEvents b (nextDraw s)
         status := recordAck (nextDraw s) s.status
         draws := s.draws.tail
         drawCount := s.drawCount + 1 }) := by
  rw [sbWriteByte, sbAck_eq, sbDataBits_eq]
  simp [nextDraw, sbByteEvents]

/-- The levels to come, one by one. -/
theorem nextDraws_succ (n : Nat) (s : State) : nextDraws (n + 1) s = nextDraw s :: nextDraws n (takeDraw s) := by
  cases h : s.draws <;> simp [nextDraws, nextDraw, drawsFrom, h]

@[simp] theorem nextDraws_length (n : Nat) (s : State) : (nextDraws n s).length = n := by
  induction n generalizing s with
  | zero => rfl
  | succ n ih => rw [nextDraws_succ, List.length_cons, ih]

/-- Bytes one after another, whatever their acknowledges (R199). -/
theorem sbWriteBytes_eq (bytes : List Byte) (s : State) :
    sbWriteBytes bytes s =
      { s with
        sb := if bytes = [] then s.sb
              else { sclOe := true, sdaOe := (nextDraws bytes.length s).getLastD false }
        trace := s.trace ++ sbBytesEvents (bytes.zip (nextDraws bytes.length s))
        status := statusAfterAcks (nextDraws bytes.length s) s.status
        draws := s.draws.drop bytes.length
        drawCount := s.drawCount + bytes.length } := by
  unfold sbWriteBytes
  induction bytes generalizing s with
  | nil => simp [sbBytesEvents, statusAfterAcks, nextDraws, drawsFrom]
  | cons b rest ih =>
    have hds : nextDraws (rest.length + 1) s = nextDraw s :: drawsFrom rest.length s.draws.tail (s.drawCount + 1) :=
      nextDraws_succ _ _
    have hl : (drawsFrom rest.length s.draws.tail (s.drawCount + 1)).length = rest.length :=
      nextDraws_length rest.length (takeDraw s)
    rw [List.foldl_cons, ih, sbWriteByte_eq, List.length_cons, hds]
    simp only [nextDraws]
    have hn : s.drawCount + 1 + rest.length = s.drawCount + (rest.length + 1) := by omega
    rw [hn]
    generalize drawsFrom rest.length s.draws.tail (s.drawCount + 1) = ds at hl
    clear ih hds hn
    cases rest with
    | nil =>
      obtain rfl : ds = [] := List.length_eq_zero_iff.mp hl
      simp [sbBytesEvents, statusAfterAcks]
    | cons x xs =>
      cases ds with
      | nil => simp at hl
      | cons d ds => simp [sbBytesEvents, statusAfterAcks, List.getLast?_cons]

/-- One frame: start, bytes, stop; both lines end released (30_encoding.md R100). -/
theorem sbFrame_eq (bytes : List Byte) (s : State) :
    sbFrame bytes s =
      { s with
        sb := { sclOe := false, sdaOe := false }
        trace := s.trace ++ (sbStartEvents ++ sbBytesEvents (bytes.zip (nextDraws bytes.length s)) ++ sbStopEvents)
        status := statusAfterAcks (nextDraws bytes.length s) s.status
        draws := s.draws.drop bytes.length
        drawCount := s.drawCount + bytes.length } := by
  rw [sbFrame, sbStop_eq, sbWriteBytes_eq, sbStart_eq]
  simp [nextDraws]

/-- Encoding raw values one by one fails exactly when one of them is above 9 (41_layer.md R140). -/
theorem encodeSlots_ok (t : DigitTable) (raws : List Byte) (codes : List Byte) :
    encodeSlots t raws = .ok codes ↔ raws.map (encodeDigit t) = codes.map .ok := by
  induction raws generalizing codes with
  | nil => cases codes <;> simp [encodeSlots]
  | cons r rest ih =>
    unfold encodeSlots
    cases h1 : encodeDigit t r with
    | error c => cases codes <;> simp [h1]
    | ok b =>
      cases h2 : encodeSlots t rest with
      | error c =>
        cases codes with
        | nil => simp
        | cons d ds =>
          have := (ih ds).not.mp (by simp [h2])
          simp [h1, this]
      | ok bs =>
        have hb := (ih bs).mp h2
        cases codes with
        | nil => simp
        | cons d ds =>
          simp only [List.map_cons, h1, hb, List.cons.injEq, Except.ok.injEq]
          constructor
          · rintro ⟨rfl, rfl⟩; exact ⟨rfl, rfl⟩
          · rintro ⟨rfl, h⟩
            exact ⟨rfl, (List.map_injective_iff.mpr (fun _ _ h => Except.ok.inj h)) h⟩

end Sys2Proof.Machine
end

