-- ==== Sys2Proof/Laws/Decode.lean ====
section
/-! SUPPORT. The fields of a word of four bytes, and the parts of the decoder. -/

namespace Sys2Proof

/-- The bits of a word of four bytes, C lowest (30_encoding.md R82). -/
theorem wordOf_getLsbD (op a b c : Byte) (j : Nat) :
    (wordOf op a b c).getLsbD j =
      if j < 8 then c.getLsbD j
      else if j - 8 < 8 then b.getLsbD (j - 8)
      else if j - 8 - 8 < 8 then a.getLsbD (j - 8 - 8)
      else op.getLsbD (j - 8 - 8 - 8) := by
  change (op ++ a ++ b ++ c : BitVec (8 + 8 + 8 + 8)).getLsbD j = _
  rw [BitVec.getLsbD_append, BitVec.getLsbD_append, BitVec.getLsbD_append]

@[simp] theorem opField_wordOf (op a b c : Byte) : opField (wordOf op a b c) = op := by
  apply BitVec.eq_of_getLsbD_eq
  intro i hi
  rw [opField, BitVec.getLsbD_extractLsb', wordOf_getLsbD, if_neg (by omega), if_neg (by omega), if_neg (by omega), show 24 + i - 8 - 8 - 8 = i by omega]
  simp [hi]

@[simp] theorem aField_wordOf (op a b c : Byte) : aField (wordOf op a b c) = a := by
  apply BitVec.eq_of_getLsbD_eq
  intro i hi
  rw [aField, BitVec.getLsbD_extractLsb', wordOf_getLsbD, if_neg (by omega), if_neg (by omega), if_pos (by omega), show 16 + i - 8 - 8 = i by omega]
  simp [hi]

@[simp] theorem bField_wordOf (op a b c : Byte) : bField (wordOf op a b c) = b := by
  apply BitVec.eq_of_getLsbD_eq
  intro i hi
  rw [bField, BitVec.getLsbD_extractLsb', wordOf_getLsbD, if_neg (by omega), if_pos (by omega), show 8 + i - 8 = i by omega]
  simp [hi]

@[simp] theorem cField_wordOf (op a b c : Byte) : cField (wordOf op a b c) = c := by
  apply BitVec.eq_of_getLsbD_eq
  intro i hi
  rw [cField, BitVec.getLsbD_extractLsb', wordOf_getLsbD, if_pos (by omega), show 0 + i = i by omega]
  simp [hi]

/-- A word is the word of its four fields (30_encoding.md R82). -/
theorem wordOf_fields (w : Word) : wordOf (opField w) (aField w) (bField w) (cField w) = w := by
  unfold opField aField bField cField wordOf
  apply BitVec.eq_of_getLsbD_eq
  intro i hi
  simp only [BitVec.getLsbD_append, BitVec.getLsbD_extractLsb']
  split
  · simp; omega
  · split
    · simp only [show 8 + (i - 8) = i by omega, Bool.and_eq_right_iff_imp, decide_eq_true_eq]; omega
    · split
      · simp only [show 16 + (i - 8 - 8) = i by omega, Bool.and_eq_right_iff_imp, decide_eq_true_eq]; omega
      · simp only [show 24 + (i - 8 - 8 - 8) = i by omega, Bool.and_eq_right_iff_imp, decide_eq_true_eq]; omega

/-- Words of four bytes are equal exactly when their bytes are. -/
theorem wordOf_inj (op a b c op' a' b' c' : Byte) :
    wordOf op a b c = wordOf op' a' b' c' ↔ op = op' ∧ a = a' ∧ b = b' ∧ c = c' := by
  constructor
  · intro h
    exact ⟨by simpa using congrArg opField h, by simpa using congrArg aField h, by simpa using congrArg bField h,
      by simpa using congrArg cField h⟩
  · rintro ⟨rfl, rfl, rfl, rfl⟩; rfl

/-- A mask applies to each byte of a word. -/
theorem wordOf_and (op a b c m1 m2 m3 m4 : Byte) :
    wordOf op a b c &&& wordOf m1 m2 m3 m4 = wordOf (op &&& m1) (a &&& m2) (b &&& m3) (c &&& m4) := by
  apply BitVec.eq_of_getLsbD_eq
  intro i _
  simp only [BitVec.getLsbD_and, wordOf_getLsbD]
  split
  · rfl
  · split
    · rfl
    · split <;> rfl

/-- A row's test, byte by byte (R84). -/
theorem OpRow.holds_wordOf (p1 p2 p3 p4 m1 m2 m3 m4 op a b c : Byte) :
    OpRow.holds ⟨wordOf p1 p2 p3 p4, wordOf m1 m2 m3 m4⟩ (wordOf op a b c) = true ↔
      op &&& m1 = p1 ∧ a &&& m2 = p2 ∧ b &&& m3 = p3 ∧ c &&& m4 = p4 := by
  simp only [OpRow.holds, wordOf_and, beq_iff_eq, wordOf_inj]

/-- A field of one bit has nothing under the mask of its constant bits (R82). -/
theorem isBitField_mask (f : Byte) : isBitField f = true ↔ f &&& 0xFE = 0 := by
  revert f; decide

/-- A row field has nothing under the mask of its constant bits (R82). -/
theorem isRowField_mask (f : Byte) : isRowField f = true ↔ f &&& 0xF8 = 0 := by
  revert f; decide

/-- The format check gives its command exactly when the constant bits hold. -/
theorem whenZero_eq_ok (p : Bool) (op : Byte) (i j : Instr) : whenZero p op i = .ok j ↔ p = true ∧ i = j := by
  cases p <;> simp [whenZero]

end Sys2Proof
end

