-- ==== Sys2Proof/Laws/Operands.lean ====
section
/-! SUPPORT. What the operand and status-field functions compute. -/

namespace Sys2Proof.Machine

/-- A replaced bit reads as its new value, every other bit as before. -/
theorem setBit_getLsbD (b : Byte) (i j : Nat) (v : Bool) :
    (setBit b i v).getLsbD j = if j = i ∧ j < 8 then v else b.getLsbD j := by
  unfold setBit
  by_cases hj : j < 8
  · by_cases hij : j = i
    · subst hij; cases v <;> simp [hj]
    · rcases Nat.lt_or_gt_of_ne hij with h | h
      · cases v <;> simp [hj, hij, h]
      · cases v <;> simp [hj, hij, Nat.not_lt.mpr h.le] <;> omega
  · rw [BitVec.getLsbD_of_ge _ _ (by omega), BitVec.getLsbD_of_ge _ _ (by omega)]
    simp [hj]

theorem setBit_same (b : Byte) (i : Nat) (v : Bool) (h : i < 8) : (setBit b i v).getLsbD i = v := by
  rw [setBit_getLsbD, if_pos ⟨rfl, h⟩]

theorem setBit_other (b : Byte) (i j : Nat) (v : Bool) (h : j ≠ i) :
    (setBit b i v).getLsbD j = b.getLsbD j := by
  rw [setBit_getLsbD, if_neg (fun hj => h hj.1)]

/-- Bit i of a reversed byte is bit 7 - i (00_scope.md R13). -/
theorem rev8_getLsbD (b : Byte) (i : Nat) (h : i < 8) : (rev8 b).getLsbD i = b.getLsbD (7 - i) := by
  unfold rev8
  simp only [List.foldl, setBit_getLsbD]
  interval_cases i <;> simp

/-- An in-range coordinate is the operand's own value (40_frame.md R110). -/
theorem coord_eq_some (x : Byte) (c : Fin 8) : coord x = some c ↔ x.toNat = c.val := by
  revert x c; decide

theorem coord_eq_none (x : Byte) : coord x = none ↔ x.toInt < 0 ∨ 7 < x.toInt := by
  revert x; decide

theorem slotIndex_eq_some (x : Byte) (i : Fin 4) : slotIndex x = some i ↔ x.toNat = i.val := by
  revert x i; decide

theorem slotIndex_eq_none (x : Byte) : slotIndex x = none ↔ x.toInt < 0 ∨ 3 < x.toInt := by
  revert x; decide

/-- Encoding fails only above 9, and with DIGIT_RANGE (41_layer.md R140). -/
theorem encodeDigit_error (t : DigitTable) (raw : Byte) (c : FaultCause) :
    encodeDigit t raw = .error c ↔ c = .digitRange ∧ 9 < raw.toInt := by
  have key : ∀ r : Byte, (¬ r.toInt < 0 ∧ ¬ r.toNat < 10) ↔ 9 < r.toInt := by decide
  rw [← key raw]
  unfold encodeDigit
  split
  · simp_all
  · split
    · simp_all
    · simp_all [eq_comm]

/-- The fields of a status after a recorded fault (60_exceptions.md R242). -/
theorem recordFault_fields (c : FaultCause) (st : Byte) :
    faultSeen (recordFault c st) = true ∧
    causeField (recordFault c st) = (if faultSeen st then causeField st else c.code) ∧
    ackLast (recordFault c st) = ackLast st ∧ nackSeen (recordFault c st) = nackSeen st ∧
    oorSeen (recordFault c st) = oorSeen st ∧ (recordFault c st).getLsbD 7 = st.getLsbD 7 := by
  revert st; cases c <;> decide

/-- Recording an acknowledge level touches ACK_LAST and NACK_SEEN alone (43_segment_bus.md R195). -/
theorem recordAck_fields (lvl : Bool) (st : Byte) :
    ackLast (recordAck lvl st) = !lvl ∧ nackSeen (recordAck lvl st) = (lvl || nackSeen st) ∧
    oorSeen (recordAck lvl st) = oorSeen st ∧ faultSeen (recordAck lvl st) = faultSeen st ∧
    causeField (recordAck lvl st) = causeField st ∧ (recordAck lvl st).getLsbD 7 = st.getLsbD 7 := by
  revert st; cases lvl <;> decide

/-- Recording an out-of-range access touches OOR_SEEN alone (10_state.md R31). -/
theorem recordOor_fields (st : Byte) :
    oorSeen (recordOor st) = true ∧ ackLast (recordOor st) = ackLast st ∧ nackSeen (recordOor st) = nackSeen st ∧
    faultSeen (recordOor st) = faultSeen st ∧ causeField (recordOor st) = causeField st ∧
    (recordOor st).getLsbD 7 = st.getLsbD 7 := by
  revert st; decide

/-- STATUS_CLEAR's write touches NACK_SEEN and OOR_SEEN alone (44_status.md R231). -/
theorem clearSticky_fields (st : Byte) :
    nackSeen (clearSticky st) = false ∧ oorSeen (clearSticky st) = false ∧ ackLast (clearSticky st) = ackLast st ∧
    faultSeen (clearSticky st) = faultSeen st ∧ causeField (clearSticky st) = causeField st ∧
    (clearSticky st).getLsbD 7 = st.getLsbD 7 := by
  revert st; decide

/-- The separator write touches SEP alone (43_segment_bus.md R203). -/
theorem setSeparator_fields (ctl : Byte) (sep : Bool) :
    separator (setSeparator ctl sep) = sep ∧ ∀ j, j ≠ sepBit → (setSeparator ctl sep).getLsbD j = ctl.getLsbD j := by
  refine ⟨?_, fun j h => setBit_other ctl sepBit j sep h⟩
  exact setBit_same ctl sepBit sep (by decide)

end Sys2Proof.Machine
end

