-- ==== Sys2Proof/Laws/PerInstr.lean ====
section
/-! SUPPORT. The per-instruction family EncodesInRow: the word of a well-formed command lies in its row of the opcode map
(30_encoding.md R84, R85). -/

namespace Sys2Proof.Laws.EncodesInRow

/-- The statement of the family. -/
def Statement (i : Instr) : Prop := i.wellFormed = true → i.row.holds (encode i) = true

theorem frameClear : Statement .frameClear := fun _ =>
  (OpRow.holds_wordOf 0x01 0 0 0 0xFF 0xFF 0xFF 0xFF 0x01 0 0 0).mpr
    ⟨rfl, rfl, rfl, rfl⟩

theorem frameGet (row col : Byte) : Statement (.frameGet row col) := fun _ =>
  (OpRow.holds_wordOf 0x02 0 0 0 0xFF 0x00 0x00 0xFF 0x02 row col 0).mpr
    ⟨rfl, BitVec.and_zero, BitVec.and_zero, rfl⟩

theorem frameSet (row col v : Byte) : Statement (.frameSet row col v) := fun h =>
  (OpRow.holds_wordOf 0x03 0 0 0 0xFF 0x00 0x00 0xFE 0x03 row col v).mpr
    ⟨rfl, BitVec.and_zero, BitVec.and_zero, (isBitField_mask v).mp h⟩

theorem frameSetRaw (row col v : Byte) : Statement (.frameSetRaw row col v) := fun h =>
  (OpRow.holds_wordOf 0x04 0 0 0 0xFF 0x00 0x00 0xFE 0x04 row col v).mpr
    ⟨rfl, BitVec.and_zero, BitVec.and_zero, (isBitField_mask v).mp h⟩

theorem frameRowRead (row : Byte) : Statement (.frameRowRead row) := fun h =>
  (OpRow.holds_wordOf 0x05 0 0 0 0xFF 0xF8 0xFF 0xFF 0x05 row 0 0).mpr
    ⟨rfl, (isRowField_mask row).mp h, rfl, rfl⟩

theorem frameRowWrite (row data : Byte) : Statement (.frameRowWrite row data) := fun h =>
  (OpRow.holds_wordOf 0x06 0 0 0 0xFF 0xF8 0x00 0xFF 0x06 row data 0).mpr
    ⟨rfl, (isRowField_mask row).mp h, BitVec.and_zero, rfl⟩

theorem layerClear : Statement .layerClear := fun _ =>
  (OpRow.holds_wordOf 0x11 0 0 0 0xFF 0xFF 0xFF 0xFF 0x11 0 0 0).mpr
    ⟨rfl, rfl, rfl, rfl⟩

theorem layerGet (index : Byte) : Statement (.layerGet index) := fun _ =>
  (OpRow.holds_wordOf 0x12 0 0 0 0xFF 0x00 0xFF 0xFF 0x12 index 0 0).mpr
    ⟨rfl, BitVec.and_zero, rfl, rfl⟩

theorem layerSet (index raw : Byte) : Statement (.layerSet index raw) := fun _ =>
  (OpRow.holds_wordOf 0x13 0 0 0 0xFF 0x00 0x00 0xFF 0x13 index raw 0).mpr
    ⟨rfl, BitVec.and_zero, BitVec.and_zero, rfl⟩

theorem mbInit : Statement .mbInit := fun _ =>
  (OpRow.holds_wordOf 0x21 0 0 0 0xFF 0xFF 0xFF 0xFF 0x21 0 0 0).mpr
    ⟨rfl, rfl, rfl, rfl⟩

theorem mbRender : Statement .mbRender := fun _ =>
  (OpRow.holds_wordOf 0x22 0 0 0 0xFF 0xFF 0xFF 0xFF 0x22 0 0 0).mpr
    ⟨rfl, rfl, rfl, rfl⟩

theorem mbBrightness (percent : Byte) : Statement (.mbBrightness percent) := fun _ =>
  (OpRow.holds_wordOf 0x23 0 0 0 0xFF 0x00 0xFF 0xFF 0x23 percent 0 0).mpr
    ⟨rfl, BitVec.and_zero, rfl, rfl⟩

theorem mbXfer (addr data : Byte) : Statement (.mbXfer addr data) := fun _ =>
  (OpRow.holds_wordOf 0x24 0 0 0 0xFF 0x00 0x00 0xFF 0x24 addr data 0).mpr
    ⟨rfl, BitVec.and_zero, BitVec.and_zero, rfl⟩

theorem segRender : Statement .segRender := fun _ =>
  (OpRow.holds_wordOf 0x31 0 0 0 0xFF 0xFF 0xFF 0xFF 0x31 0 0 0).mpr
    ⟨rfl, rfl, rfl, rfl⟩

theorem segBrightness (percent en : Byte) : Statement (.segBrightness percent en) := fun h =>
  (OpRow.holds_wordOf 0x32 0 0 0 0xFF 0x00 0xFE 0xFF 0x32 percent en 0).mpr
    ⟨rfl, BitVec.and_zero, (isBitField_mask en).mp h, rfl⟩

theorem segConfig (sep : Byte) : Statement (.segConfig sep) := fun h =>
  (OpRow.holds_wordOf 0x33 0 0 0 0xFF 0xFE 0xFF 0xFF 0x33 sep 0 0).mpr
    ⟨rfl, (isBitField_mask sep).mp h, rfl, rfl⟩

theorem segStart : Statement .segStart := fun _ =>
  (OpRow.holds_wordOf 0x34 0 0 0 0xFF 0xFF 0xFF 0xFF 0x34 0 0 0).mpr
    ⟨rfl, rfl, rfl, rfl⟩

theorem segStop : Statement .segStop := fun _ =>
  (OpRow.holds_wordOf 0x35 0 0 0 0xFF 0xFF 0xFF 0xFF 0x35 0 0 0).mpr
    ⟨rfl, rfl, rfl, rfl⟩

theorem segWrite (byte : Byte) : Statement (.segWrite byte) := fun _ =>
  (OpRow.holds_wordOf 0x36 0 0 0 0xFF 0x00 0xFF 0xFF 0x36 byte 0 0).mpr
    ⟨rfl, BitVec.and_zero, rfl, rfl⟩

theorem statusRead : Statement .statusRead := fun _ =>
  (OpRow.holds_wordOf 0x41 0 0 0 0xFF 0xFF 0xFF 0xFF 0x41 0 0 0).mpr
    ⟨rfl, rfl, rfl, rfl⟩

theorem statusClear : Statement .statusClear := fun _ =>
  (OpRow.holds_wordOf 0x42 0 0 0 0xFF 0xFF 0xFF 0xFF 0x42 0 0 0).mpr
    ⟨rfl, rfl, rfl, rfl⟩

end Sys2Proof.Laws.EncodesInRow
end

