-- ==== Sys2Proof/Laws/Targets.lean ====
section
/-! SUPPORT. What the simulated targets make of the buses' event sequences, one lemma per sequence. -/

namespace Sys2Proof.Machine

/-! ## The matrix target -/

/-- A shifted bit is sampled once, at either edge (42_matrix_bus.md R161). -/
theorem MatrixView.see_bit (edge : ClockEdge) (v : MatrixView) (b : Bool) (h : v.lines.clk = false) :
    (mbBitEvents b).foldl (MatrixView.see edge) v =
      { v with lines := { v.lines with din := b, clk := false }, bits := v.bits ++ [b] } := by
  cases edge <;> simp [mbBitEvents, MatrixView.see, MbLines.write, h]

/-- Shifted bits are sampled in order. -/
theorem MatrixView.see_bits (edge : ClockEdge) (bits : List Bool) (v : MatrixView) (h : v.lines.clk = false) :
    ∃ d, (bits.flatMap mbBitEvents).foldl (MatrixView.see edge) v =
      { v with lines := { v.lines with din := d, clk := false }, bits := v.bits ++ bits } := by
  induction bits generalizing v with
  | nil => exact ⟨v.lines.din, by rcases v with ⟨⟨d, c, l⟩, b, w⟩; obtain rfl : c = false := h; simp⟩
  | cons b rest ih =>
    obtain ⟨d, hd⟩ := ih { v with lines := { v.lines with din := b, clk := false }, bits := v.bits ++ [b] } rfl
    exact ⟨d, by rw [List.flatMap_cons, List.foldl_append, see_bit _ _ _ h, hd]; simp⟩

/-- A transaction is latched as its sixteen bits (30_encoding.md R99). -/
theorem MatrixView.see_word (edge : ClockEdge) (w : Byte × Byte) (v : MatrixView)
    (hc : v.lines.clk = false) (hl : v.lines.load = true) :
    ∃ d, (mbWordEvents w).foldl (MatrixView.see edge) v =
      { lines := { din := d, clk := false, load := true }, bits := [], latched := v.latched ++ [mbWordBits w] } := by
  obtain ⟨d, hd⟩ := see_bits edge (mbWordBits w) { v with lines := v.lines.write .load false, bits := [] } hc
  have hfall : MatrixView.see edge v (.mbLoad false) = { v with lines := v.lines.write .load false, bits := [] } := by
    simp [MatrixView.see, hl]
  refine ⟨d, ?_⟩
  simp only [mbWordEvents, List.foldl_append, List.foldl_cons, List.foldl_nil, hfall, hd]
  simp [MatrixView.see, MbLines.write]

/-- Transactions are latched one by one. -/
theorem MatrixView.see_words (edge : ClockEdge) (words : List (Byte × Byte)) (v : MatrixView)
    (hc : v.lines.clk = false) (hl : v.lines.load = true) :
    ((words.flatMap mbWordEvents).foldl (MatrixView.see edge) v).latched = v.latched ++ words.map mbWordBits := by
  induction words generalizing v with
  | nil => simp
  | cons w rest ih =>
    obtain ⟨d, hd⟩ := see_word edge w v hc hl
    rw [List.flatMap_cons, List.foldl_append, hd, ih _ rfl rfl]
    simp

/-- From resting lines a target latches exactly the transactions sent. -/
theorem matrixWords_flatMap (edge : ClockEdge) (words : List (Byte × Byte)) (l : MbLines)
    (hc : l.clk = false) (hl : l.load = true) :
    matrixWords edge l (words.flatMap mbWordEvents) = words.map mbWordBits := by
  rw [matrixWords, MatrixView.see_words _ _ _ hc hl, List.nil_append]

/-! ## The segment target -/

/-- A start condition from idle lines opens a frame (00_scope.md R15). -/
theorem SegmentView.see_start (v : SegmentView) (h : v.lines = { sclOe := false, sdaOe := false }) :
    sbStartEvents.foldl SegmentView.see v =
      { v with lines := { sclOe := false, sdaOe := true }, inFrame := true, bits := [], bytes := [] } := by
  simp [sbStartEvents, SegmentView.see, SbLines.write, h]

/-- A data bit is sampled at the rise of SCL (43_segment_bus.md R204). -/
theorem SegmentView.see_bit (v : SegmentView) (b : Bool) (h : v.bits.length < 8) :
    (sbBitEvents b).foldl SegmentView.see v =
      { v with lines := { sclOe := true, sdaOe := !b }, bits := v.bits ++ [b] } := by
  have hlen : ¬ v.bits.length = 8 := by omega
  cases b <;> simp [sbBitEvents, sdaEvent, SegmentView.see, SegmentView.sample, SbLines.write, hlen]

/-- Data bits are sampled in order, as long as they are no more than eight. -/
theorem SegmentView.see_bits (bits : List Bool) (v : SegmentView) (h : v.bits.length + bits.length ≤ 8) (hne : bits ≠ []) :
    (bits.flatMap sbBitEvents).foldl SegmentView.see v =
      { v with lines := { sclOe := true, sdaOe := !bits.getLastD false }, bits := v.bits ++ bits } := by
  induction bits generalizing v with
  | nil => exact absurd rfl hne
  | cons b rest ih =>
    rw [List.length_cons] at h
    rw [List.flatMap_cons, List.foldl_append, see_bit v b (by omega)]
    cases rest with
    | nil => simp
    | cons c cs => rw [ih _ (by simp at h ⊢; omega) (by simp)]; simp [List.getLast?_cons]

/-- The acknowledge clock completes a byte, whatever the level (30_encoding.md R100). -/
theorem SegmentView.see_ack (v : SegmentView) (lvl : Bool) (h : v.bits.length = 8) (hs : v.lines.sclOe = true) :
    (sbAckEvents lvl).foldl SegmentView.see v =
      { v with lines := { sclOe := true, sdaOe := lvl }, bits := [], bytes := v.bytes ++ [byteOfBits v.bits] } := by
  have ht : (v.bits ++ [true]).take 8 = v.bits := by rw [← h, List.take_left]
  cases lvl <;> simp [sbAckEvents, SegmentView.see, SegmentView.sample, SbLines.write, h, hs, ht]

/-- The bits of a byte, least significant first, make the byte. -/
theorem byteOfBits_sbByteBits : ∀ b : Byte, byteOfBits (sbByteBits b) = b := by decide

/-- A byte sent is a byte received (R100). -/
theorem SegmentView.see_byte (v : SegmentView) (b : Byte) (lvl : Bool) (h : v.bits = []) :
    (sbByteEvents b lvl).foldl SegmentView.see v =
      { v with lines := { sclOe := true, sdaOe := lvl }, bytes := v.bytes ++ [b] } := by
  have h8 : (sbByteBits b).length = 8 := by simp [sbByteBits]
  rw [sbByteEvents, List.foldl_append, see_bits _ _ (by simp [h, h8]) (by simp [sbByteBits]), see_ack _ _ (by simp [h, h8]) rfl]
  simp [h, byteOfBits_sbByteBits]

/-- Bytes sent are bytes received, in order. -/
theorem SegmentView.see_bytes (sent : List (Byte × Bool)) (v : SegmentView) (h : v.bits = []) (hne : sent ≠ []) :
    ∃ sda, (sbBytesEvents sent).foldl SegmentView.see v =
      { v with lines := { sclOe := true, sdaOe := sda }, bytes := v.bytes ++ sent.map Prod.fst } := by
  induction sent generalizing v with
  | nil => exact absurd rfl hne
  | cons x rest ih =>
    rw [sbBytesEvents, List.foldl_append, see_byte _ _ _ h]
    cases rest with
    | nil => exact ⟨x.2, by simp [sbBytesEvents]⟩
    | cons y ys =>
      obtain ⟨sda, hd⟩ := ih { v with lines := { sclOe := true, sdaOe := x.2 }, bytes := v.bytes ++ [x.1] } h (by simp)
      exact ⟨sda, by rw [hd]; simp⟩

/-- A stop condition closes the frame and leaves the lines idle (00_scope.md R15, 43_segment_bus.md R192). -/
theorem SegmentView.see_stop (v : SegmentView) (hs : v.lines.sclOe = true) (hf : v.inFrame = true) (hb : v.bits = []) :
    sbStopEvents.foldl SegmentView.see v =
      { lines := { sclOe := false, sdaOe := false }, inFrame := false, bits := [], bytes := [],
        frames := v.frames ++ [v.bytes] } := by
  simp [sbStopEvents, SegmentView.see, SegmentView.sample, SbLines.write, hs, hf, hb]

/-- A frame sent is a frame received, whatever is acknowledged (30_encoding.md R100). -/
theorem SegmentView.see_frame (sent : List (Byte × Bool)) (v : SegmentView)
    (h : v.lines = { sclOe := false, sdaOe := false }) (hne : sent ≠ []) :
    (sbStartEvents ++ sbBytesEvents sent ++ sbStopEvents).foldl SegmentView.see v =
      { lines := { sclOe := false, sdaOe := false }, inFrame := false, bits := [], bytes := [],
        frames := v.frames ++ [sent.map Prod.fst] } := by
  rw [List.foldl_append, List.foldl_append, see_start v h]
  obtain ⟨sda, hd⟩ := see_bytes sent
    { v with lines := { sclOe := false, sdaOe := true }, inFrame := true, bits := [], bytes := [] } rfl hne
  rw [hd, see_stop _ rfl rfl rfl]
  simp

/-- The level presented at the rise of SCL is the bit (43_segment_bus.md R204). -/
theorem presentedBits_bit (l : SbLines) (b : Bool) (rest : List Event) :
    presentedBits l (sbBitEvents b ++ rest) = b :: presentedBits { sclOe := true, sdaOe := !b } rest := by
  cases b <;> simp [sbBitEvents, sdaEvent, presentedBits, SbLines.write]

/-! ## DIN and CLK -/

/-- DIN moves only while CLK is low in shifted bits, which leave CLK low (42_matrix_bus.md R161). -/
theorem dinStable_bits (bits : List Bool) (l : MbLines) (rest : List Event) (h : l.clk = false) :
    ∃ d, dinStable l (bits.flatMap mbBitEvents ++ rest) = dinStable { l with din := d, clk := false } rest := by
  induction bits generalizing l with
  | nil => exact ⟨l.din, by rcases l with ⟨d, c, a⟩; obtain rfl : c = false := h; rfl⟩
  | cons b bs ih =>
    obtain ⟨d, hd⟩ := ih { l with din := b, clk := false } rfl
    exact ⟨d, by rw [← hd]; simp [mbBitEvents, dinStable, MbLines.write, h]⟩

/-- So in a whole transaction. -/
theorem dinStable_word (w : Byte × Byte) (l : MbLines) (rest : List Event) (h : l.clk = false) :
    ∃ d, dinStable l (mbWordEvents w ++ rest) = dinStable { din := d, clk := false, load := true } rest := by
  obtain ⟨d, hd⟩ := dinStable_bits (mbWordBits w) (l.write .load false) ([.mbLoad true] ++ rest) h
  refine ⟨d, ?_⟩
  have : mbWordEvents w ++ rest = .mbLoad false :: ((mbWordBits w).flatMap mbBitEvents ++ ([.mbLoad true] ++ rest)) := by
    simp [mbWordEvents]
  rw [this, dinStable, hd]
  simp [dinStable, MbLines.write]

/-! ## Counts -/

/-- A transaction is 50 events, none of them a delay or a sense (70_reset_and_hazards.md R282). -/
theorem mbWordEvents_counts (w : Byte × Byte) :
    (mbWordEvents w).length = 50 ∧ delayCount (mbWordEvents w) = 0 ∧ (mbWordEvents w).count (.sbSense true) = 0 := by
  have hbits : ∀ bits : List Bool, (bits.flatMap mbBitEvents).length = 3 * bits.length ∧
      (bits.flatMap mbBitEvents).count .sbDelay = 0 ∧ (bits.flatMap mbBitEvents).count (.sbSense true) = 0 := by
    intro bits
    induction bits with
    | nil => simp
    | cons b bs ih => simp [List.flatMap_cons, mbBitEvents, ih]; omega
  have h16 : (mbWordBits w).length = 16 := by simp [mbWordBits, mbBitOrder]
  obtain ⟨h1, h2, h3⟩ := hbits (mbWordBits w)
  simp [mbWordEvents, delayCount, List.count_append, h1, h2, h3, h16]

/-- A byte and its acknowledge cycle are 64 events, one more on a high level, 28 of them delays (43_segment_bus.md R205). -/
theorem sbByteEvents_counts (b : Byte) (lvl : Bool) :
    (sbByteEvents b lvl).length = 64 + (sbByteEvents b lvl).count (.sbSense true) ∧ delayCount (sbByteEvents b lvl) = 28 := by
  have hbit : ∀ v, (sbBitEvents v).length = 7 ∧ (sbBitEvents v).count (.sbSense true) = 0 ∧
      (sbBitEvents v).count .sbDelay = 3 := by decide
  have hack : ∀ v, (sbAckEvents v).length = 8 + (sbAckEvents v).count (.sbSense true) ∧
      (sbAckEvents v).count .sbDelay = 4 := by decide
  have hbits : ∀ bits : List Bool, (bits.flatMap sbBitEvents).length = 7 * bits.length ∧
      (bits.flatMap sbBitEvents).count (.sbSense true) = 0 ∧ (bits.flatMap sbBitEvents).count .sbDelay = 3 * bits.length := by
    intro bits
    induction bits with
    | nil => simp
    | cons b bs ih =>
      obtain ⟨h1, h2, h3⟩ := hbit b
      rw [List.flatMap_cons, List.length_append, List.count_append, List.count_append, h1, h2, h3, ih.1, ih.2.1, ih.2.2,
        List.length_cons]
      omega
  have h8 : (sbByteBits b).length = 8 := by simp [sbByteBits]
  obtain ⟨h1, h2, h3⟩ := hbits (sbByteBits b)
  obtain ⟨h4, h5⟩ := hack lvl
  rw [h8] at h1 h3
  rw [sbByteEvents, delayCount, List.length_append, List.count_append, List.count_append, h1, h2, h3, h5]
  omega

end Sys2Proof.Machine
end

