-- ==== Sys2Proof/Tests/Slice0.lean ====
section
/-! SUPPORT. Tests: expected values from spec/ (95_test_vectors.md unless a comment says otherwise), and for every
statement with hypotheses a witness that meets them. -/

namespace Sys2Proof.Tests

open Sys2Proof.Machine

set_option Elab.async false

/-! ## Helpers -/

/-- The parameters of 95_test_vectors.md: the defaults, with MB_DEFAULT_INTENSITY = 8. -/
def testConfig : Config := { defaultConfig with mbDefaultIntensity := 8, mbMinPhase := 0, sbBitDelay := 0 }

/-- The reset state with those parameters and acknowledges laid down for six senses. -/
def testState : State := { State.reset with cfg := testConfig, draws := [false, false, false, false, false, false] }

/-- The state after one step on a command word. -/
def after (w : Word) (s : State) : Option State :=
  match step (s.withFetchWord 32 w.toNat) with
  | .next t => some t
  | .fault _ => none
  | .refused _ => none

/-- The state a command leaves. -/
def ran (i : Instr) (s : State) : State :=
  match exec i s with
  | .next t => t
  | .fault _ => s
  | .refused _ => s

/-- A Layer that holds a raw value in slot 0. -/
def withSlot0 (raw : Byte) : State := { testState with layer := testState.layer.set 0 raw }

/-- A Frame row set in the test state. -/
def withRow (r : Fin 8) (v : Byte) : State := { testState with frame := testState.frame.set r v }

/-- The sixteen bits of a matrix-bus word, MSB first. -/
def bits16 (w : Word16) : List Bool := [15, 14, 13, 12, 11, 10, 9, 8, 7, 6, 5, 4, 3, 2, 1, 0].map w.getLsbD

/-- Result and status after a step. -/
def resultAndStatus (o : Option State) : Option (Byte × Byte) := o.map fun t => (t.result, t.status)

/-! ## WellFormed refuses each must-be-zero breach (30_encoding.md R82) -/

theorem test_refuses_frameSet_v : (Instr.frameSet 0 0 2).wellFormed = false := by decide
theorem test_refuses_frameSetRaw_v : (Instr.frameSetRaw 0 0 0x80).wellFormed = false := by decide
theorem test_refuses_frameRowRead_row : (Instr.frameRowRead 8).wellFormed = false := by decide
theorem test_refuses_frameRowWrite_row : (Instr.frameRowWrite 0xFF 0).wellFormed = false := by decide
theorem test_refuses_segBrightness_en : (Instr.segBrightness 50 2).wellFormed = false := by decide
theorem test_refuses_segConfig_sep : (Instr.segConfig 2).wellFormed = false := by decide

/-! ## Decoding: words written out from R82 and R85 -/

theorem test_decode_frameClear : decode 0b00000001_00000000_00000000_00000000 = .ok .frameClear := by decide
theorem test_decode_frameGet : decode 0b00000010_00000001_00000111_00000000 = .ok (.frameGet 1 7) := by decide
theorem test_decode_frameSet : decode 0b00000011_00000011_11111111_00000001 = .ok (.frameSet 3 0xFF 1) := by decide
theorem test_decode_frameSetRaw : decode 0b00000100_10000000_00000010_00000000 = .ok (.frameSetRaw 0x80 2 0) := by decide
theorem test_decode_frameRowRead : decode 0b00000101_00000111_00000000_00000000 = .ok (.frameRowRead 7) := by decide
theorem test_decode_frameRowWrite : decode 0b00000110_00000001_10000001_00000000 = .ok (.frameRowWrite 1 0x81) := by decide
theorem test_decode_layerClear : decode 0b00010001_00000000_00000000_00000000 = .ok .layerClear := by decide
theorem test_decode_layerGet : decode 0b00010010_00000010_00000000_00000000 = .ok (.layerGet 2) := by decide
theorem test_decode_layerSet : decode 0b00010011_00000001_11110110_00000000 = .ok (.layerSet 1 0xF6) := by decide
theorem test_decode_mbInit : decode 0b00100001_00000000_00000000_00000000 = .ok .mbInit := by decide
theorem test_decode_mbRender : decode 0b00100010_00000000_00000000_00000000 = .ok .mbRender := by decide
theorem test_decode_mbBrightness : decode 0b00100011_00110010_00000000_00000000 = .ok (.mbBrightness 50) := by decide
theorem test_decode_mbXfer : decode 0b00100100_00001010_00001000_00000000 = .ok (.mbXfer 0x0A 0x08) := by decide
theorem test_decode_segRender : decode 0b00110001_00000000_00000000_00000000 = .ok .segRender := by decide
theorem test_decode_segBrightness : decode 0b00110010_00110010_00000001_00000000 = .ok (.segBrightness 50 1) := by decide
theorem test_decode_segConfig : decode 0b00110011_00000001_00000000_00000000 = .ok (.segConfig 1) := by decide
theorem test_decode_segStart : decode 0b00110100_00000000_00000000_00000000 = .ok .segStart := by decide
theorem test_decode_segStop : decode 0b00110101_00000000_00000000_00000000 = .ok .segStop := by decide
theorem test_decode_segWrite : decode 0b00110110_00111111_00000000_00000000 = .ok (.segWrite 0x3F) := by decide
theorem test_decode_statusRead : decode 0b01000001_00000000_00000000_00000000 = .ok .statusRead := by decide
theorem test_decode_statusClear : decode 0b01000010_00000000_00000000_00000000 = .ok .statusClear := by decide

/-- The words of "Decoding", and one must-be-zero breach per shape of format. -/
theorem test_decode_rejects :
    [0x00000000, 0x07000000, 0xFF000000, 0x10000000, 0x43000000, 0x05080000, 0x03000002, 0x01000001, 0x12000001,
     0x240A0801, 0x32320200, 0x33020000, 0x41010000].all
      (fun w : Word => resultAndStatus (after w testState) == some (0, 0x18)) = true := by decide

/-! ## Frame (F1 to F18) -/

theorem test_frameClear : (ran .frameClear (withRow 3 0xFF)).frame = Vector.replicate 8 0 := by decide

/-- F3's read. -/
theorem test_frameGet_pixel : resultAndStatus (after 0x02030400 (withRow 3 0x08)) = some (1, 0) := by decide

/-- F8: column 8 of row 1 is not column 0 of row 2. -/
theorem test_frameGet_out : resultAndStatus (after 0x02010800 (withRow 1 0x81)) = some (0, 0x04) := by decide

/-- F4: a 0 clears one pixel. -/
theorem test_frameSet_clears : (ran (.frameSet 2 0 0) (withRow 2 0xFF)).frame[2] = 0x7F := by decide

/-- F5. -/
theorem test_frameSet_out : (after 0x0303FF01 testState).map (fun t => (t.frame, t.status)) =
    some (Vector.replicate 8 0, 0x04) := by decide

/-- F11: the row check wins. -/
theorem test_frameSetRaw_fault : resultAndStatus (after 0x04FF0901 testState) = some (0, 0x28) := by decide

/-- F12. -/
theorem test_frameSetRaw_write : ((after 0x04020301 testState).map (·.frame[2])) = some 0x10 := by decide

/-- F14's read. -/
theorem test_frameRowRead : resultAndStatus (after 0x05010000 (withRow 1 0x81)) = some (0x81, 0) := by decide

/-- F14's write: the bits as given, not reversed. -/
theorem test_frameRowWrite : (after 0x06019D00 testState).map (fun t => (t.frame[0], t.frame[1], t.frame[2])) =
    some (0, 0x9D, 0) := by decide

/-! ## Layer (L1 to L12) -/

theorem test_layerClear : (ran .layerClear (withSlot0 4)).layer = #v[0xFF, 0xFF, 0xFF, 0xFF] := by decide

/-- L3 and L11: no decimal point from LAYER_GET. -/
theorem test_layerGet_digit : resultAndStatus (after 0x12000000 { withSlot0 8 with segctl := 1 }) = some (0x7F, 0) := by decide

/-- L7 and L8: a value above 9 faults when its slot is read, and index -1 reads no slot. -/
theorem test_layerGet_bounds : resultAndStatus (after 0x12000000 (withSlot0 10)) = some (0, 0x38) ∧
    resultAndStatus (after 0x12FF0000 (withSlot0 127)) = some (0, 0x04) := by decide

/-- L6: no fault yet. -/
theorem test_layerSet_raw : (after 0x13000A00 testState).map (fun t => (t.layer[0], t.status)) = some (10, 0) := by decide

/-- L9. -/
theorem test_layerSet_out : (after 0x13040700 testState).map (fun t => (t.layer, t.status)) =
    some (Vector.replicate 4 0xFF, 0x04) := by decide

/-! ## Matrix bus (MB1 to MB8) -/

/-- MB1, event by event. -/
theorem test_mbXfer_events : (ran (.mbXfer 0x0A 0x08) testState).trace =
    [.mbLoad false] ++
    ([false, false, false, false, true, false, true, false, false, false, false, false, true, false, false, false].flatMap
      fun b => [.mbDin b, .mbClk true, .mbClk false]) ++ [.mbLoad true] := by decide

/-- MB1's end lines, with data[0] = 1. -/
theorem test_mbXfer_lines : (ran (.mbXfer 0x0A 0x0F) testState).mb = { din := true, clk := false, load := true } := by decide

/-- MB3: the thirteen words in their order. -/
theorem test_mbInit_words : (mbInitWords testConfig).map (fun w => w.1 ++ w.2) =
    [0x0900, 0x0F00, 0x0B07, 0x0C01, 0x0A08, 0x0100, 0x0200, 0x0300, 0x0400, 0x0500, 0x0600, 0x0700, 0x0800] := by decide

/-- S2: row 0 at 0x9D is sent as 0x01B9; P2's words for row 3 at 0x08 and row 7 at 0x01. -/
theorem test_mbRender_words : (mbRenderWords #v[0x9D, 0, 0, 0x08, 0, 0, 0, 0x01]).map (fun w => w.1 ++ w.2) =
    [0x01B9, 0x0200, 0x0300, 0x0410, 0x0500, 0x0600, 0x0700, 0x0880] := by decide

/-- MB4: the reversals of single rows. -/
theorem test_mbRender_reversal :
    ([0x80, 0x01, 0x08, 0x9D, 0x81, 0xF0] : List Byte).map rev8 = [0x01, 0x80, 0x10, 0xB9, 0x81, 0x0F] := by decide

/-- MB6. -/
theorem test_mbBrightness_word :
    matrixWords .rising testState.mb (ran (.mbBrightness 50) testState).trace = [bits16 0x0A08] := by decide +kernel

/-- MB7. -/
theorem test_mbBrightness_fault : (after 0x23650000 testState).map (fun t => (t.status, t.trace)) = some (0x48, []) := by decide

/-- MB5: the smallest p that reaches each intensity 1..15. -/
theorem test_mbIntensity_table :
    ([0, 8, 15, 22, 29, 36, 43, 50, 58, 65, 72, 79, 86, 93, 100] : List Byte).map mbIntensity =
      [1, 2, 3, 4, 5, 6, 7, 8, 9, 10, 11, 12, 13, 14, 15] ∧
    ([7, 14, 21, 92, 99] : List Byte).map mbIntensity = [1, 2, 3, 13, 14] := by decide

/-! ## Segment bus (SB1 to SB13) -/

/-- SB1. -/
theorem test_segStart : (ran .segStart testState).trace = [.sbDrive .sda, .sbDelay] ∧
    (ran .segStart testState).sb = { sclOe := false, sdaOe := true } := by decide

/-- SB2's stop half. -/
theorem test_segStop : (ran .segStop (ran .segStart testState)).trace.drop 2 =
      [.sbDrive .sda, .sbDelay, .sbRelease .scl, .sbDelay, .sbRelease .sda, .sbDelay] ∧
    (ran .segStop (ran .segStart testState)).sb = { sclOe := false, sdaOe := false } := by decide

/-- SB3, event by event. -/
theorem test_segWrite_ack :
    (ran (.segWrite 0x3F) testState).trace =
      (List.replicate 6 [Event.sbDrive .scl, .sbRelease .sda, .sbDelay, .sbRelease .scl, .sbDelay, .sbDrive .scl, .sbDelay]).flatten
      ++ (List.replicate 2 [Event.sbDrive .scl, .sbDrive .sda, .sbDelay, .sbRelease .scl, .sbDelay, .sbDrive .scl, .sbDelay]).flatten
      ++ [.sbRelease .sda, .sbDelay, .sbRelease .scl, .sbDelay, .sbDrive .scl, .sbDelay, .sbSense false, .sbDelay] ∧
    (ran (.segWrite 0x3F) testState).result = 1 ∧ (ran (.segWrite 0x3F) testState).status = 0x01 ∧
    (ran (.segWrite 0x3F) testState).sb = { sclOe := true, sdaOe := false } := by decide

/-- SB4: the end of the trace, the result, the status and the lines on a no ack. -/
theorem test_segWrite_nack :
    let t := ran (.segWrite 0x3F) { testState with draws := [true] }
    t.trace.length = 65 ∧ t.trace.drop 62 = [.sbSense true, .sbDrive .sda, .sbDelay] ∧ t.result = 0 ∧ t.status = 0x02 ∧
      t.sb = { sclOe := true, sdaOe := true } := by decide

/-- SB11's bytes, framed. -/
theorem test_segRender_frames :
    segmentFrames testState.sb (ran .segRender { testState with layer := #v[1, 2, 3, 4], segctl := 1 }).trace =
      [[0x40], [0xC0, 0x86, 0xDB, 0xCF, 0xE6]] := by decide +kernel

/-- SB12: the fault comes before the first event. -/
theorem test_segRender_fault :
    (after 0x31000000 { testState with layer := #v[0, 0, 0, 10] }).map (fun t => (t.status, t.trace)) = some (0x38, []) := by
  decide

/-- SB8. -/
theorem test_segBrightness_byte :
    segmentFrames testState.sb (ran (.segBrightness 50 1) testState).trace = [[0x8B]] ∧
    segmentFrames testState.sb (ran (.segBrightness 100 0) testState).trace = [[0x87]] := by decide +kernel

/-- SB9. -/
theorem test_segBrightness_fault : (after 0x32650100 testState).map (fun t => (t.status, t.trace)) = some (0x48, []) := by decide

/-- SB11's configuration. -/
theorem test_segConfig : (after 0x33010000 testState).map (fun t => (t.segctl, t.trace)) = some (1, []) ∧
    (after 0x33000000 { testState with segctl := 1 }).map (·.segctl) = some 0 := by decide

/-- SB7: the smallest p that reaches each level, and the p just below. -/
theorem test_sbLevel_table :
    ([0, 15, 29, 43, 58, 72, 86, 100] : List Byte).map sbLevel = [0, 1, 2, 3, 4, 5, 6, 7] ∧
    ([14, 28, 42, 57, 71, 85, 99] : List Byte).map sbLevel = [0, 1, 2, 3, 4, 5, 6] := by decide

/-! ## Status (ST1 to ST6) -/

/-- P3, step 2. -/
theorem test_statusRead : resultAndStatus (after 0x41000000 { testState with status := 0x2C }) = some (0x2C, 0x2C) := by decide

/-- ST2. -/
theorem test_statusClear : resultAndStatus (after 0x42000000 { testState with status := 0x2F }) = some (0, 0x29) := by decide

/-- ST3 and ST5: OOR_SEEN beside a fault, and the first cause kept. -/
theorem test_first_cause_kept :
    resultAndStatus (after 0x03090001 { testState with status := 0x28 }) = some (0, 0x2C) ∧
    resultAndStatus (after 0x23650000 { testState with status := 0x28 }) = some (0, 0x28) := by decide

/-! ## Reset, the byte port and the assembler -/

/-- The reset input clears a fault and the trace (70_reset_and_hazards.md R270, R271). -/
theorem test_reset_input :
    (match step { ran .segStart testState with status := 0x28, inbox := [.reset] } with
      | .next t => some (t.status, t.trace, t.sb)
      | .fault _ => none
      | .refused _ => none) = some (0, [], { sclOe := false, sdaOe := false }) := by decide

/-- OP first (20_memory.md R69). -/
theorem test_port : decodePort [0x24, 0x0A, 0x08, 0x00] = .ok (.mbXfer 0x0A 0x08) := by decide

/-- Lines of P2 and P3 of the test vectors, a comment, a hexadecimal literal. -/
theorem test_assemble :
    assemble "FRAME_SET 7, 7, 1\nLAYER_BLANK 2 ; blank\n; nothing\nSEG_BRIGHTNESS 50,1\nFRAME_ROW_WRITE 3, 0x99" =
      .ok [0x03070701, 0x1302FF00, 0x32320100, 0x06039900] := by decide +kernel

/-- P1's FRAME_LOAD, and a stamp of two points (30_encoding.md R96, R97). -/
theorem test_assemble_pseudo :
    assembleLine "FRAME_LOAD 0xFF, 0x81, 0x81, 0x81, 0x81, 0x81, 0x81, 0xFF".toList =
      .ok [0x0600FF00, 0x06018100, 0x06028100, 0x06038100, 0x06048100, 0x06058100, 0x06068100, 0x0607FF00] ∧
    assembleLine "FRAME_STAMP 1, (0, 0), (7, 7)".toList = .ok [0x03000001, 0x03070701] := by decide +kernel

/-- Literals out of range give no word (30_encoding.md R90). -/
theorem test_assemble_refuses :
    assembleLine "FRAME_GET 128, 0".toList = .error .outOfRange ∧
    assembleLine "FRAME_GET -129, 0".toList = .error .outOfRange ∧
    assembleLine "MB_BRIGHTNESS 256".toList = .error .outOfRange ∧
    assembleLine "FRAME_ROW_READ 8".toList = .error .outOfRange ∧
    assembleLine "SEG_CONFIG 2".toList = .error .outOfRange ∧
    assembleLine "FRAME_CLEAR 0".toList = .error .operandCount ∧
    assembleLine "FRAME_STAMP 1, 0, 0".toList = .error .badLiteral ∧
    assembleLine "FRAME_FILL".toList = .error .unknownMnemonic := by decide +kernel

/-! ## Witnesses: for every statement with hypotheses, states and operands that meet them -/

theorem witness_DecodeAfterEncode :
    (Instr.frameSet 0x80 0xFF 1).wellFormed = true ∧ (Instr.frameRowWrite 7 0xFF).wellFormed = true ∧
    (Instr.frameSet 0 0 2).wellFormed = false ∧ (Instr.frameRowRead 8).wellFormed = false := by decide

theorem witness_EncodeAfterDecode : decode 0x32640100 = .ok (.segBrightness 100 1) := by decide

/-- One word per clause: a decoding word, a word in a row, a word of no row at the head of the inbox. -/
theorem witness_DecodingFollowsTheOpcodeMap :
    decode 0x05070000 = .ok (.frameRowRead 7) ∧
    (Instr.frameRowRead 0).row ∈ opcodeMap ∧ (0x05070000 : Word) &&& (Instr.frameRowRead 0).row.mask = (Instr.frameRowRead 0).row.pattern ∧
    (withCommand 0x05080000 testState).inbox = [.command 0x05080000] ∧
    (∀ r ∈ opcodeMap, (0x05080000 : Word) &&& r.mask ≠ r.pattern) := by decide

theorem witness_BytePortCarriesOpFirst : ([0x01, 0x00, 0x00] : List Byte).length ≠ 4 := by decide

theorem witness_LiteralsAreRangeChecked :
    operandByte .s8 (.dec (-128)) = some 0x80 ∧ operandByte .s8 (.dec 127) = some 0x7F ∧ operandByte .u8 (.dec 255) = some 0xFF ∧
    operandByte .row3 (.dec 7) = some 7 ∧ operandByte .bit (.dec 1) = some 1 ∧ operandByte .s8 (.hex 0xFF) = some 0xFF ∧
    operandByte .u8 (.hex 255) = some 0xFF ∧ operandByte .row3 (.hex 7) = some 7 ∧ operandByte .bit (.hex 1) = some 1 := by
  decide

theorem witness_AssembledWordsDecode :
    assembleLine "FRAME_SET 3, -1, 1".toList = .ok [0x0303FF01] ∧ (0x0303FF01 : Word) ∈ [(0x0303FF01 : Word)] := by
  decide +kernel

/-- A decoding head, a rejected head, no head, a well-formed instruction. -/
theorem witness_StepRunsTheNextCommand :
    (withCommand 0x01000000 testState).inbox = .command 0x01000000 :: [] ∧ decode 0x01000000 = .ok .frameClear ∧
    (withCommand 0x43000000 testState).inbox = .command 0x43000000 :: [] ∧ decode 0x43000000 = .error (.reservedOp 0x43) ∧
    testState.inbox = [] ∧ (Instr.segConfig 1).wellFormed = true := by decide

theorem witness_EveryInputCompletes : (withCommand 0x31000000 testState).inbox ≠ [] := by decide

theorem witness_ResetInputRestoresTheBlock :
    ({ testState with status := 0x48, inbox := [.reset, .command 0x21000000] } : State).inbox =
      .reset :: [.command 0x21000000] := by decide

/-- A faulted state that meets the invariant, and a step from it. -/
theorem witness_StepKeepsTheInvariant :
    ∃ s t : State, s.Inv ∧ s.status = 0x48 ∧ step s = .next t ∧ t.status = 0x4C :=
  ⟨{ testState with status := 0x48, segctl := 1, inbox := [.command 0x03090001] },
   { testState with status := 0x4C, segctl := 1 },
   { statusReserved := by decide, noCauseWithoutFault := by decide, causeOfFault := by decide, segctlReserved := by decide,
     clockLow := by decide, latchHigh := by decide },
   rfl, rfl, rfl⟩

theorem witness_NoStepChangesAParameter :
    (∃ t, exec (.segConfig 1) testState = .next t) ∧ (∃ t, step (withCommand 0x33010000 testState) = .next t) :=
  ⟨⟨_, rfl⟩, ⟨_, rfl⟩⟩

theorem witness_OnlyFrameCommandsTouchTheFrame :
    (∃ t, exec (.frameSet 0 0 1) testState = .next t ∧ t.frame ≠ testState.frame) ∧
    (∃ t, exec .statusRead testState = .next t) ∧ (∀ r c, Instr.statusRead ≠ .frameGet r c) ∧
    (∀ r, Instr.statusRead ≠ .frameRowRead r) ∧ Instr.statusRead ≠ .mbRender :=
  ⟨⟨_, rfl, by decide⟩, ⟨_, rfl⟩, by simp, by simp, by simp⟩

theorem witness_OnlyLayerCommandsTouchTheLayer :
    (∃ t, exec (.layerSet 3 9) testState = .next t ∧ t.layer ≠ testState.layer) ∧
    (∃ t, exec .mbRender testState = .next t) ∧ (∀ k, Instr.mbRender ≠ .layerGet k) ∧ Instr.mbRender ≠ .segRender :=
  ⟨⟨_, rfl, by decide⟩, ⟨_, rfl⟩, by simp, by simp⟩

/-- ACK_LAST moves, NACK_SEEN rises and falls, OOR_SEEN rises and falls, FAULT and FAULT_CAUSE change. -/
theorem witness_StatusFieldsChangeOnlyAsStated :
    (∃ t, exec (.segWrite 0) testState = .next t ∧ t.status.getLsbD 0 ≠ testState.status.getLsbD 0) ∧
    (∃ t, exec (.segWrite 0) { testState with draws := [true] } = .next t ∧ t.status.getLsbD 1 = true) ∧
    (∃ t, exec .statusClear { testState with status := 0x06 } = .next t ∧ t.status.getLsbD 1 = false ∧
      t.status.getLsbD 2 = false) ∧
    (∃ t, exec (.layerGet 4) testState = .next t ∧ testState.status.getLsbD 2 = false ∧ t.status.getLsbD 2 = true) ∧
    (∃ t, exec (.mbBrightness 101) testState = .next t ∧ t.status.getLsbD 3 ≠ testState.status.getLsbD 3 ∧
      t.status.extractLsb' 4 3 ≠ testState.status.extractLsb' 4 3) :=
  ⟨⟨_, rfl, by decide⟩, ⟨_, rfl, by decide⟩, ⟨_, rfl, by decide, by decide⟩, ⟨_, rfl, by decide, by decide⟩,
   ⟨_, rfl, by decide, by decide⟩⟩

theorem witness_CommandsUseOneBusAndAppend :
    (∃ t, exec (.mbXfer 1 1) testState = .next t ∧ t.mb ≠ testState.mb) ∧
    (∃ t, exec .segStart testState = .next t ∧ t.sb ≠ testState.sb) ∧
    (∃ t, exec (.segConfig 1) testState = .next t ∧ t.segctl ≠ testState.segctl) :=
  ⟨⟨_, rfl, by decide⟩, ⟨_, rfl, by decide⟩, ⟨_, rfl, by decide⟩⟩

/-- Each cause, in an unfaulted and a faulted state, and a word that raises none. -/
theorem witness_FaultingWordOnlyRecordsTheFault :
    faultOfWord 0x00000000 testState = some .illegalCommand ∧ faultOfWord 0x04080001 testState = some .rawRowRange ∧
    faultOfWord 0x12000000 (withSlot0 10) = some .digitRange ∧ faultOfWord 0x31000000 (withSlot0 127) = some .digitRange ∧
    faultOfWord 0x23650000 { testState with status := 0x28 } = some .percentRange ∧ testState.status.getLsbD 3 = false ∧
    faultOfWord 0x23640000 testState = none ∧ faultOfWord 0x04070001 testState = none ∧
    faultOfWord 0x31000000 (withSlot0 9) = none := by decide

theorem witness_CommandsIgnoreARecordedFault :
    (0x2C : Byte).extractLsb' 0 3 = ({ testState with status := 0x04 } : State).status.extractLsb' 0 3 ∧
    (∃ t, exec (.frameSet 9 0 1) { testState with status := 0x04 } = .next t) ∧ Instr.frameSet 9 0 1 ≠ .statusRead :=
  ⟨by decide, ⟨_, rfl⟩, by simp⟩

theorem witness_OnlyResetClearsAFault :
    (∃ s t : State, s.inbox = .command 0x42000000 :: [] ∧ s.status.getLsbD 3 = true ∧ step s = .next t) ∧
    (∃ s : State, s.inbox = .reset :: [] ∧ s.status.getLsbD 3 = true) :=
  ⟨⟨{ testState with status := 0x28, inbox := [.command 0x42000000] }, _, rfl, by decide, rfl⟩,
   ⟨{ testState with status := 0x28, inbox := [.reset] }, rfl, by decide⟩⟩

/-- An unfaulted state, a run of it that ends well, and one that does not. -/
theorem witness_RunEndsWellIffNothingFaults :
    testState.faulted = false ∧ endsWell ([0x01000000, 0x41000000].map .command) testState = true ∧
    endsWell ([0x04080001, 0x42000000].map .command) testState = false := by decide

/-- The corners in range, and an operand out of range at each end. -/
theorem witness_FrameGetReadsThePixel :
    (0 : Byte).toInt = (0 : Fin 8).val ∧ (7 : Byte).toInt = (7 : Fin 8).val ∧
    ¬ BothInRange 8 0 ∧ ¬ BothInRange 0 0xFF ∧ ¬ BothInRange 0x80 0x7F := by decide +kernel

theorem witness_FrameSetWritesOnePixel :
    (7 : Byte).toInt = (7 : Fin 8).val ∧ (0 : Byte).toInt = (0 : Fin 8).val ∧ ¬ BothInRange 0xFF 7 ∧ ¬ BothInRange 7 8 := by
  decide +kernel

/-- A row below and above the range, a pixel in range, and a column out of range beside a row at each end. -/
theorem witness_FrameSetRawGuardsTheRow :
    (0xFF : Byte).toInt < 0 ∧ 7 < (8 : Byte).toInt ∧ (7 : Byte).toInt = (7 : Fin 8).val ∧
    (0 ≤ (0 : Byte).toInt ∧ (0 : Byte).toInt ≤ 7 ∧ (0x80 : Byte).toInt < 0) ∧
    (0 ≤ (7 : Byte).toInt ∧ (7 : Byte).toInt ≤ 7 ∧ 7 < (8 : Byte).toInt) := by decide

theorem witness_RowAccessesMoveWholeRows :
    ((7 : Byte).extractLsb' 0 3).toNat = (7 : Fin 8).val ∧ ((0 : Byte).extractLsb' 0 3).toNat = (0 : Fin 8).val ∧
    (0 : Fin 8) ≠ 7 := by decide

theorem witness_SetThenGetReturnsTheBit :
    BothInRange 7 0 ∧ (1 : Byte).toNat < 2 ∧ ¬((7 : Byte).toInt = (7 : Fin 8).val ∧ (0 : Byte).toInt = (1 : Fin 8).val) := by
  decide +kernel

theorem witness_OutOfRangeNeverChangesThePixels : ¬ BothInRange 8 0 ∧ ¬ BothInRange 0 8 ∧ 7 < (8 : Byte).toInt := by
  decide +kernel

theorem witness_CanvasPseudoCommandsExpand :
    (3 : Byte).toInt = (3 : Fin 4).val ∧ (0 : Fin 4) ≠ 3 ∧ (7 : Byte).toNat = (7 : Fin 8).val := by decide

/-- The last slot, and an index out of range at each end. -/
theorem witness_LayerWritesStoreRawValues :
    (3 : Byte).toInt = (3 : Fin 4).val ∧ (0 : Fin 4) ≠ 3 ∧ (0xFF : Byte).toInt < 0 ∧ 3 < (4 : Byte).toInt := by decide

/-- A slot at -1, at 9 and at 10, and an index out of range at each end. -/
theorem witness_LayerGetEncodesTheSlot :
    (0 : Byte).toInt = (0 : Fin 4).val ∧ testState.layer[(0 : Fin 4)].toInt < 0 ∧
    (withSlot0 9).layer[(0 : Fin 4)].toInt = (9 : Fin 10).val ∧ 9 < (withSlot0 10).layer[(0 : Fin 4)].toInt ∧
    (0xFF : Byte).toInt < 0 ∧ 3 < (4 : Byte).toInt := by decide

theorem witness_EncodingHappensAtReadTime :
    (3 : Byte).toInt = (3 : Fin 4).val ∧ (9 : Byte).toInt ≤ 9 ∧ 9 < (10 : Byte).toInt := by decide

theorem witness_MbBrightnessSendsTheIntensity : (100 : Byte).toNat ≤ 100 ∧ 100 < (101 : Byte).toNat := by decide

theorem witness_MatrixIntensityScale : (99 : Byte).toNat ≤ (100 : Byte).toNat ∧ (100 : Byte).toNat ≤ 100 := by decide

theorem witness_DinMovesOnlyWhileTheClockIsLow :
    ∃ (s t : State) (es : List Event), s.mb.clk = false ∧ exec (.mbXfer 0x0A 0x08) s = .next t ∧ t.trace = s.trace ++ es ∧ es ≠ [] :=
  ⟨testState, _, _, rfl, rfl, rfl, by decide⟩

theorem witness_MatrixTargetLatchesTheWords :
    testState.mb.clk = false ∧ testState.mb.load = true ∧ (100 : Byte).toNat ≤ 100 := by decide

theorem witness_MatrixTargetReceivesTheFrame :
    (withRow 3 0x08).mb.clk = false ∧ (withRow 3 0x08).mb.load = true := by decide

theorem witness_SegWriteSendsOneByte :
    nextDraw testState = false ∧ nextDraw { testState with draws := [true] } = true := by decide

/-- Slots at 9 and -1 with a missing acknowledge among the levels, and a slot at 10. -/
theorem witness_SegRenderSendsTheLayer :
    (∃ s : State, DigitsReadable s ∧ nextDraws 6 s = [false, true, false, false, true, true]) ∧
    (∃ s : State, ∃ k : Fin 4, 9 < s.layer[k].toInt) :=
  ⟨⟨{ testState with layer := #v[9, 0xFF, 0, 9], draws := [false, true, false, false, true, true] },
    fun k => by revert k; decide, by decide⟩,
   ⟨{ testState with layer := #v[0, 0, 0, 10] }, 3, by decide⟩⟩

theorem witness_AcknowledgesAccumulateInStatus : 2 ≤ 7 := by decide

theorem witness_SegBrightnessSendsTheControlByte :
    (100 : Byte).toNat ≤ 100 ∧ nextDraw testState = false ∧ 100 < (101 : Byte).toNat := by decide

theorem witness_SegmentLevelScale : testConfig.sbEnableBit = 3 ∧ (100 : Byte).toNat ≤ 100 := by decide

theorem witness_SegmentTargetReceivesTheFrames :
    testState.segmentIdle = true ∧ DigitsReadable testState ∧ (100 : Byte).toNat ≤ 100 :=
  ⟨by decide, fun k => by revert k; decide, by decide⟩

theorem witness_EventCountsAreAsListed :
    (∃ (t : State) (es : List Event), exec .segStop testState = .next t ∧ t.trace = testState.trace ++ es ∧
      faultOf .segStop testState = none) ∧
    (∃ (t : State) (es : List Event), exec (.mbBrightness 101) testState = .next t ∧ t.trace = testState.trace ++ es ∧
      faultOf (.mbBrightness 101) testState ≠ none) :=
  ⟨⟨_, _, rfl, rfl, rfl⟩, ⟨_, [], rfl, rfl, by decide⟩⟩

theorem witness_RepeatedReadsChangeNothing :
    (∃ t, exec (.frameGet 8 0) testState = .next t) ∧ (∃ t, exec (.frameRowRead 7) testState = .next t) ∧
    (∃ t, exec (.layerGet 0) (withSlot0 10) = .next t) ∧ (∃ t, exec .statusRead testState = .next t) :=
  ⟨⟨_, rfl⟩, ⟨_, rfl⟩, ⟨_, rfl⟩, ⟨_, rfl⟩⟩

/-- Two states with different pictures and statuses, and writes at the edges of their ranges. -/
theorem witness_TickShowsOnlyItsOwnWrites :
    let s1 := testState
    let s2 := { withRow 3 0xFF with layer := #v[1, 2, 3, 10], status := 0x3A, draws := [] }
    (∀ i ∈ [Instr.frameSet 7 7 1, .layerSet 3 9, .frameRowWrite 0 0xFF], isCanvasWrite i = true) ∧ s1.cfg = s2.cfg ∧
    s1.segctl.getLsbD 0 = s2.segctl.getLsbD 0 ∧ s1.segmentIdle = true ∧ s2.segmentIdle = true ∧
    s1.mb.clk = false ∧ s1.mb.load = true ∧ s2.mb.clk = false ∧ s2.mb.load = true ∧ s1.frame ≠ s2.frame :=
  ⟨by decide, rfl, rfl, rfl, rfl, rfl, rfl, rfl, rfl, by decide⟩

end Sys2Proof.Tests
end

section
/-! The statements of 00_scope.md: bit reversal (R13) and the levels a sense may yield (R12). -/

namespace Sys2Proof.Machine

/-- SEG_WRITE as a whole-state equation (43_segment_bus.md R193, R194, R195, R198). -/
theorem exec_segWrite_eq (b : Byte) (s : State) :
    exec (.segWrite b) s =
      .next { s with
        sb := { sclOe := true, sdaOe := nextDraw s }
        trace := s.trace ++ sbByteEvents b (nextDraw s)
        status := recordAck (nextDraw s) s.status
        draws := s.draws.tail
        drawCount := s.drawCount + 1
        result := zextBit (!nextDraw s) } := by
  change execSegWrite b s = _
  rw [execSegWrite, sbWriteByte_eq]
  rfl

/-- A level laid down at the head of the list is the next draw. -/
@[simp] theorem nextDraw_laidDown (d : Bool) (ds : List Bool) (s : State) :
    nextDraw { s with draws := d :: ds } = d := rfl

/-- The bits of a byte are sent without a sense (43_segment_bus.md R193). -/
theorem sbSense_notMem_sbBitEvents (e v : Bool) : Event.sbSense e ∉ sbBitEvents v := by
  revert e v; decide

/-- An acknowledge cycle senses exactly its own level (43_segment_bus.md R194). -/
theorem sbSense_mem_sbAckEvents (e lvl : Bool) : Event.sbSense e ∈ sbAckEvents lvl ↔ e = lvl := by
  revert e lvl; decide

/-- A byte with its acknowledge cycle senses exactly the level of the cycle. -/
theorem sbSense_mem_sbByteEvents (b : Byte) (e lvl : Bool) :
    Event.sbSense e ∈ sbByteEvents b lvl ↔ e = lvl := by
  have hdata : Event.sbSense e ∉ (sbByteBits b).flatMap sbBitEvents := fun hmem =>
    have ⟨v, _, hv⟩ := List.mem_flatMap.mp hmem
    sbSense_notMem_sbBitEvents e v hv
  rw [sbByteEvents, List.mem_append, or_iff_right hdata, sbSense_mem_sbAckEvents]

/-- SEG_WRITE's result is 1 exactly on a low level (43_segment_bus.md R198). -/
theorem zextBit_not_eq_one (lvl : Bool) : zextBit (!lvl) = 1 ↔ lvl = false := by
  revert lvl; decide

/-- Settles O49: one SEG_WRITE draws the laid-down level, and its only sense event carries that level. -/
theorem everySensedLevelIsPossible : Obligations.EverySensedLevelIsPossible := by
  intro b s d
  refine ⟨_, sbByteEvents b d, exec_segWrite_eq b _, rfl, rfl, ?_, ?_, ?_⟩
  · exact (sbSense_mem_sbByteEvents b d d).mpr rfl
  · rw [sbSense_mem_sbByteEvents]
    exact Bool.not_ne_self d
  · rw [nextDraw_laidDown]
    exact zextBit_not_eq_one d

/-- Settles O38: the general law of `rev8`, and the source's two examples by evaluation. -/
theorem rowReversalMirrorsBits : Obligations.RowReversalMirrorsBits :=
  ⟨fun b i => rev8_getLsbD b i.val i.isLt, by decide, by decide⟩

end Sys2Proof.Machine
end

section
/-! What one command can do to the state, and who writes and reads which element (10_state.md R22, R25, R42). -/

namespace Sys2Proof.Machine

/-! ## The writers of 10_state.md R42 -/

/-- The writers of the Frame (10_state.md R22). -/
def WritesFrame (i : Instr) : Prop :=
  i = .frameClear ∨ (∃ r c v, i = .frameSet r c v) ∨ (∃ r c v, i = .frameSetRaw r c v) ∨ ∃ r d, i = .frameRowWrite r d

/-- The writers of the Layer (10_state.md R25). -/
def WritesLayer (i : Instr) : Prop := i = .layerClear ∨ ∃ k raw, i = .layerSet k raw

/-- The commands with an acknowledge cycle, which record it in `status` (10_state.md R29, R30). -/
def SendsBytes (i : Instr) : Prop := (∃ b, i = .segWrite b) ∨ i = .segRender ∨ ∃ p en, i = .segBrightness p en

/-- The commands that compare a coordinate or an index with its range (10_state.md R31). -/
def ChecksRange (i : Instr) : Prop :=
  (∃ r c, i = .frameGet r c) ∨ (∃ r c v, i = .frameSet r c v) ∨ (∃ r c v, i = .frameSetRaw r c v) ∨
    (∃ k, i = .layerGet k) ∨ ∃ k raw, i = .layerSet k raw

/-! ## The status register -/

/-- What the command `i` can leave in `status`: one constructor per rule that writes it (10_state.md R28 to R34). -/
inductive StatusWrite (s : State) (i : Instr) : Byte → Prop where
  | none : StatusWrite s i s.status
  | fault (c : FaultCause) (h : faultOf i s = some c) : StatusWrite s i (recordFault c s.status)
  | outOfRange (h : ChecksRange i) : StatusWrite s i (recordOor s.status)
  | acks (h : SendsBytes i) (levels : List Bool) : StatusWrite s i (statusAfterAcks levels s.status)
  | clear (h : i = .statusClear) : StatusWrite s i (clearSticky s.status)

/-- The fault and the reserved bit of `status` are the same. -/
structure SameFault (st st' : Byte) : Prop where
  fault : faultSeen st' = faultSeen st
  cause : causeField st' = causeField st
  reserved : st'.getLsbD 7 = st.getLsbD 7

/-- Acknowledge cycles touch ACK_LAST and NACK_SEEN alone, and never clear NACK_SEEN (43_segment_bus.md R195). -/
theorem statusAfterAcks_fields (levels : List Bool) (st : Byte) :
    SameFault st (statusAfterAcks levels st) ∧ oorSeen (statusAfterAcks levels st) = oorSeen st ∧
      (nackSeen st = true → nackSeen (statusAfterAcks levels st) = true) := by
  induction levels generalizing st with
  | nil => exact ⟨⟨rfl, rfl, rfl⟩, rfl, id⟩
  | cons lvl rest ih =>
    obtain ⟨-, hnack, hoor, hfault, hcause, h7⟩ := recordAck_fields lvl st
    obtain ⟨⟨hfault', hcause', h7'⟩, hoor', hnack'⟩ := ih (recordAck lvl st)
    exact ⟨⟨hfault'.trans hfault, hcause'.trans hcause, h7'.trans h7⟩, hoor'.trans hoor,
      fun h => hnack' (by rw [hnack, h, Bool.or_true])⟩

/-- A command records a fault of its own, or leaves FAULT, FAULT_CAUSE and bit 7 as they are. -/
theorem StatusWrite.fault_or_same {s : State} {i : Instr} {st : Byte} (h : StatusWrite s i st) :
    (∃ c, faultOf i s = some c ∧ st = recordFault c s.status) ∨ SameFault s.status st := by
  cases h with
  | none => exact .inr ⟨rfl, rfl, rfl⟩
  | fault c hc => exact .inl ⟨c, hc, rfl⟩
  | outOfRange _ =>
    obtain ⟨-, -, -, hfault, hcause, h7⟩ := recordOor_fields s.status
    exact .inr ⟨hfault, hcause, h7⟩
  | acks _ levels => exact .inr (statusAfterAcks_fields levels s.status).1
  | clear _ =>
    obtain ⟨-, -, -, hfault, hcause, h7⟩ := clearSticky_fields s.status
    exact .inr ⟨hfault, hcause, h7⟩

/-! ## What a command can do -/

/-- All that the command `i` can do in `s`: the state it leaves, by the elements it writes. -/
inductive Effect (s : State) (i : Instr) : State → Prop where
  /-- Only `result` is written. -/
  | returns (v : Byte) : Effect s i { s with result := v }
  | faults (c : FaultCause) (h : faultOf i s = some c) : Effect s i (raiseFault c s)
  | outOfRange (h : ChecksRange i) : Effect s i { setOor s with result := 0 }
  | frame (h : WritesFrame i) (f : Vector Byte 8) : Effect s i { s with frame := f, result := 0 }
  | layer (h : WritesLayer i) (l : Vector Byte 4) : Effect s i { s with layer := l, result := 0 }
  /-- Whole transactions, which leave CLK low and LOAD high (42_matrix_bus.md R160). -/
  | matrixWords (din : Bool) (es : List Event) :
      Effect s i { s with mb := ⟨din, false, true⟩, trace := s.trace ++ es, result := 0 }
  /-- A start or a stop condition alone. -/
  | segmentLines (sb : SbLines) (es : List Event) : Effect s i { s with sb := sb, trace := s.trace ++ es, result := 0 }
  /-- Bytes with their acknowledge cycles. -/
  | segmentBytes (h : SendsBytes i) (sb : SbLines) (es : List Event) (levels draws : List Bool) (n : Nat) (v : Byte) :
      Effect s i { s with sb := sb, trace := s.trace ++ es, status := statusAfterAcks levels s.status, draws := draws,
                          drawCount := n, result := v }
  | separator (sep : Bool) : Effect s i { s with segctl := setSeparator s.segctl sep, result := 0 }
  | clear (h : i = .statusClear) : Effect s i { s with status := clearSticky s.status, result := 0 }

section
variable {s t : State} {i : Instr}

theorem Effect.cfg_eq (h : Effect s i t) : t.cfg = s.cfg := by
  cases h <;> rfl

/-- Only its writers change the Frame (10_state.md R22). -/
theorem Effect.writesFrame (h : Effect s i t) (hne : t.frame ≠ s.frame) : WritesFrame i := by
  cases h with
  | frame hw f => exact hw
  | _ => exact absurd rfl hne

/-- Only its writers change the Layer (10_state.md R25). -/
theorem Effect.writesLayer (h : Effect s i t) (hne : t.layer ≠ s.layer) : WritesLayer i := by
  cases h with
  | layer hw l => exact hw
  | _ => exact absurd rfl hne

theorem Effect.statusWrite (h : Effect s i t) : StatusWrite s i t.status := by
  cases h with
  | faults c hc => exact .fault c hc
  | outOfRange hr => exact .outOfRange hr
  | segmentBytes hb _ _ levels => exact .acks hb levels
  | clear hi => exact .clear hi
  | _ => exact .none

/-- The separator write or nothing: the reserved bits of `segctl` stay 0 (10_state.md R35). -/
theorem Effect.segctl_lt (h : Effect s i t) (hs : s.segctl.toNat < 2) : t.segctl.toNat < 2 := by
  have key : ∀ (ctl : Byte) (sep : Bool), ctl.toNat < 2 → (setSeparator ctl sep).toNat < 2 := by decide
  cases h with
  | separator sep => exact key s.segctl sep hs
  | _ => exact hs

/-- The matrix bus comes to rest with CLK 0 and LOAD 1 after every command (42_matrix_bus.md R160). -/
theorem Effect.mb_resting (h : Effect s i t) (hclk : s.mb.clk = false) (hload : s.mb.load = true) :
    t.mb.clk = false ∧ t.mb.load = true := by
  cases h with
  | matrixWords din es => exact ⟨rfl, rfl⟩
  | _ => exact ⟨hclk, hload⟩

end

/-! ## Commands that fault -/

/-- Encoding slots fails only with DIGIT_RANGE, on a raw value above 9 (41_layer.md R140). -/
theorem encodeSlots_error {t : DigitTable} {raws : List Byte} {c : FaultCause} (h : encodeSlots t raws = .error c) :
    c = .digitRange ∧ raws.any (fun raw => 9 < raw.toInt) = true := by
  induction raws with
  | nil => simp [encodeSlots] at h
  | cons raw rest ih =>
    rw [encodeSlots] at h
    rw [List.any_cons, Bool.or_eq_true, decide_eq_true_eq]
    split at h
    next c' hraw =>
      cases h
      obtain ⟨hc, hr⟩ := (encodeDigit_error t raw c).mp hraw
      exact ⟨hc, .inl hr⟩
    next code _ =>
      split at h
      next c' hrest =>
        cases h
        obtain ⟨hc, hr⟩ := ih hrest
        exact ⟨hc, .inr hr⟩
      next => cases h

/-- A row that FRAME_SET_RAW cannot use raises RAW_ROW_RANGE (60_exceptions.md R241). -/
theorem faultOf_frameSetRaw {row : Byte} (col v : Byte) (s : State) (h : coord row = none) :
    faultOf (.frameSetRaw row col v) s = some .rawRowRange :=
  if_pos ((coord_eq_none row).mp h)

/-- A slot that LAYER_GET cannot encode raises DIGIT_RANGE (60_exceptions.md R241). -/
theorem faultOf_layerGet {index : Byte} {k : Fin 4} {s : State} {c : FaultCause} (hk : slotIndex index = some k)
    (hc : encodeDigit s.cfg.digits (slot s k) = .error c) : faultOf (.layerGet index) s = some c := by
  obtain ⟨rfl, hraw⟩ := (encodeDigit_error _ _ _).mp hc
  have hindex : index.toNat = k.val := (slotIndex_eq_some index k).mp hk
  have hrange : ∀ x : Byte, x.toNat < 4 → 0 ≤ x.toInt ∧ x.toInt ≤ 3 := by decide
  obtain ⟨h0, h3⟩ := hrange index (hindex ▸ k.isLt)
  have hslot : s.layer.toList.getD index.toNat 0 = slot s k := by
    rw [hindex]
    simp [slot, List.getD_eq_getElem?_getD]
  rw [faultOf, hslot]
  exact if_pos ⟨h0, h3, hraw⟩

theorem faultOf_segRender {s : State} {c : FaultCause} (h : encodeSlots s.cfg.digits s.layer.toList = .error c) :
    faultOf .segRender s = some c := by
  obtain ⟨rfl, hany⟩ := encodeSlots_error h
  exact if_pos hany

/-! ## The commands that read the Layer, case by case -/

theorem exec_layerGet_outOfRange {index : Byte} {s : State} (h : slotIndex index = none) :
    exec (.layerGet index) s = .next { setOor s with result := blankCode } := by
  simp only [exec, execLayerGet, layerRead, h, finish_eq]

theorem exec_layerGet_ok {index code : Byte} {k : Fin 4} {s : State} (hk : slotIndex index = some k)
    (hc : encodeDigit s.cfg.digits (slot s k) = .ok code) :
    exec (.layerGet index) s = .next { s with result := code } := by
  simp only [exec, execLayerGet, layerRead, hk, hc, finish_eq]

theorem exec_layerGet_error {index : Byte} {k : Fin 4} {s : State} {c : FaultCause} (hk : slotIndex index = some k)
    (hc : encodeDigit s.cfg.digits (slot s k) = .error c) :
    exec (.layerGet index) s = .next (raiseFault c s) := by
  simp only [exec, execLayerGet, layerRead, hk, hc, raise_eq]

theorem nextDraws_one (s : State) : nextDraws 1 s = [nextDraw s] := nextDraws_succ 0 s

/-- SEG_RENDER's two frames, the second with the address byte and the digits (43_segment_bus.md R199). -/
theorem exec_segRender_ok {s : State} {codes : List Byte} (h : encodeSlots s.cfg.digits s.layer.toList = .ok codes) :
    exec .segRender s = .next { s with
      sb := { sclOe := false, sdaOe := false }
      trace := s.trace ++ ((sbStartEvents ++ sbBytesEvents [(sbCmdData, nextDraw s)] ++ sbStopEvents) ++
        (sbStartEvents ++ sbBytesEvents (((sbCmdAddr + 0) :: codes.map (withSeparator (separator s.segctl))).zip
          (nextDraws (codes.length + 1) (takeDraw s))) ++ sbStopEvents))
      status := statusAfterAcks (nextDraw s :: nextDraws (codes.length + 1) (takeDraw s)) s.status
      draws := s.draws.tail.drop (codes.length + 1)
      drawCount := s.drawCount + 1 + (codes.length + 1)
      result := 0 } := by
  have hone : nextDraws [sbCmdData].length s = [nextDraw s] := nextDraws_one s
  have hlen : ((sbCmdAddr + 0) :: codes.map (withSeparator (separator s.segctl))).length = codes.length + 1 := by simp
  simp only [exec, execSegRender, h]
  rw [sbFrame_eq, sbFrame_eq, hone, hlen, List.append_assoc s.trace, List.length_singleton, List.drop_one]
  rfl

theorem exec_segRender_error {s : State} {c : FaultCause} (h : encodeSlots s.cfg.digits s.layer.toList = .error c) :
    exec .segRender s = .next (raiseFault c s) := by
  simp only [exec, execSegRender, h, raise_eq]

/-! ## Each command has one of the effects -/

/-- Every command completes, with one of the effects above. -/
theorem exec_effect (i : Instr) (s : State) : ∃ t, exec i s = .next t ∧ Effect s i t := by
  cases i with
  | frameClear => exact ⟨_, rfl, .frame (.inl rfl) _⟩
  | frameGet row col =>
    rw [exec, execFrameGet]
    split
    · exact ⟨_, rfl, .returns _⟩
    · exact ⟨_, rfl, .outOfRange (.inl ⟨_, _, rfl⟩)⟩
  | frameSet row col v =>
    rw [exec, execFrameSet]
    split
    · exact ⟨_, rfl, .frame (.inr (.inl ⟨_, _, _, rfl⟩)) _⟩
    · exact ⟨_, rfl, .outOfRange (.inr (.inl ⟨_, _, _, rfl⟩))⟩
  | frameSetRaw row col v =>
    rw [exec, execFrameSetRaw]
    split
    next hrow => exact ⟨_, rfl, .faults _ (faultOf_frameSetRaw col v s hrow)⟩
    next =>
      split
      · exact ⟨_, rfl, .frame (.inr (.inr (.inl ⟨_, _, _, rfl⟩))) _⟩
      · exact ⟨_, rfl, .outOfRange (.inr (.inr (.inl ⟨_, _, _, rfl⟩)))⟩
  | frameRowRead row => exact ⟨_, rfl, .returns _⟩
  | frameRowWrite row data => exact ⟨_, rfl, .frame (.inr (.inr (.inr ⟨_, _, rfl⟩))) _⟩
  | layerClear => exact ⟨_, rfl, .layer (.inl rfl) _⟩
  | layerGet index =>
    cases hk : slotIndex index with
    | none => exact ⟨_, exec_layerGet_outOfRange hk, .outOfRange (.inr (.inr (.inr (.inl ⟨_, rfl⟩))))⟩
    | some k =>
      cases hc : encodeDigit s.cfg.digits (slot s k) with
      | ok code => exact ⟨_, exec_layerGet_ok hk hc, .returns code⟩
      | error c => exact ⟨_, exec_layerGet_error hk hc, .faults c (faultOf_layerGet hk hc)⟩
  | layerSet index raw =>
    rw [exec, execLayerSet]
    split
    · exact ⟨_, rfl, .layer (.inr ⟨_, _, rfl⟩) _⟩
    · exact ⟨_, rfl, .outOfRange (.inr (.inr (.inr (.inr ⟨_, _, rfl⟩))))⟩
  | mbInit =>
    rw [exec, execMbInit, mbTransactions_eq]
    exact ⟨_, rfl, .matrixWords _ _⟩
  | mbRender =>
    rw [exec, execMbRender, mbTransactions_eq]
    exact ⟨_, rfl, .matrixWords _ _⟩
  | mbBrightness percent =>
    rw [exec, execMbBrightness]
    split
    next hp => exact ⟨_, rfl, .faults .percentRange (if_pos hp)⟩
    next =>
      rw [mbTransaction_eq]
      exact ⟨_, rfl, .matrixWords _ _⟩
  | mbXfer addr data =>
    rw [exec, execMbXfer, mbTransaction_eq]
    exact ⟨_, rfl, .matrixWords _ _⟩
  | segRender =>
    cases hc : encodeSlots s.cfg.digits s.layer.toList with
    | ok codes => exact ⟨_, exec_segRender_ok hc, .segmentBytes (.inr (.inl rfl)) _ _ _ _ _ _⟩
    | error c => exact ⟨_, exec_segRender_error hc, .faults c (faultOf_segRender hc)⟩
  | segBrightness percent en =>
    rw [exec, execSegBrightness]
    split
    next hp => exact ⟨_, rfl, .faults .percentRange (if_pos hp)⟩
    next =>
      rw [sbFrame_eq]
      exact ⟨_, rfl, .segmentBytes (.inr (.inr ⟨_, _, rfl⟩)) _ _ _ _ _ _⟩
  | segConfig sep => exact ⟨_, rfl, .separator _⟩
  | segStart =>
    rw [exec, execSegStart, sbStart_eq]
    exact ⟨_, rfl, .segmentLines _ _⟩
  | segStop =>
    rw [exec, execSegStop, sbStop_eq]
    exact ⟨_, rfl, .segmentLines _ _⟩
  | segWrite byte => exact ⟨_, exec_segWrite_eq byte s, .segmentBytes (.inl ⟨_, rfl⟩) _ _ [nextDraw s] _ _ _⟩
  | statusRead => exact ⟨_, rfl, .returns _⟩
  | statusClear => exact ⟨_, rfl, .clear rfl⟩

theorem effect_of_exec {i : Instr} {s t : State} (h : exec i s = .next t) : Effect s i t := by
  obtain ⟨t', ht', heffect⟩ := exec_effect i s
  rw [h] at ht'
  cases ht'
  exact heffect

/-! ## Steps -/

/-- A step that goes on took the host's oldest input and ran it (30_encoding.md R80). -/
theorem step_eq_next {s t : State} (h : step s = .next t) :
    ∃ input rest, s.inbox = input :: rest ∧ runInput input { s with inbox := rest } = .next t := by
  cases hin : s.inbox with
  | nil => simp [step, takeInput, hin] at h
  | cons input rest => exact ⟨input, rest, rfl, by simpa [step, takeInput, hin] using h⟩

theorem step_of_inbox {s : State} {input : HostInput} {rest : List HostInput} (h : s.inbox = input :: rest) :
    step s = runInput input { s with inbox := rest } := by
  simp [step, takeInput, h]

/-- A command word runs its command, or records ILLEGAL_COMMAND (30_encoding.md R84). -/
theorem runWord_eq_next {w : Word} {s t : State} (h : runWord w s = .next t) :
    (∃ i, Effect s i t) ∨ t = raiseFault .illegalCommand s := by
  rw [runWord] at h
  split at h
  next i _ => exact .inl ⟨i, effect_of_exec h⟩
  next =>
    rw [raise_eq] at h
    cases h
    exact .inr rfl

/-- A command word records a fault, or leaves FAULT, FAULT_CAUSE and bit 7 of `status` as they are. -/
theorem runWord_fault_or_same {w : Word} {s t : State} (h : runWord w s = .next t) :
    (∃ c, t.status = recordFault c s.status) ∨ SameFault s.status t.status := by
  obtain ⟨i, heffect⟩ | rfl := runWord_eq_next h
  · exact heffect.statusWrite.fault_or_same.imp_left fun ⟨c, _, hc⟩ => ⟨c, hc⟩
  · exact .inl ⟨.illegalCommand, rfl⟩

/-! ## The invariant of the block -/

/-- The codes of the causes are 1 to 4 (60_exceptions.md R241). -/
theorem FaultCause.code_range (c : FaultCause) : 1 ≤ c.code.toNat ∧ c.code.toNat ≤ 4 := by
  cases c <;> decide

/-- The invariant from its parts: its clauses about `status` hold as before, or by the cause just recorded. -/
theorem State.Inv.of_parts {s t : State} (hs : s.Inv)
    (hstatus : (∃ c, t.status = recordFault c s.status) ∨ SameFault s.status t.status)
    (hctl : t.segctl.toNat < 2) (hmb : t.mb.clk = false ∧ t.mb.load = true) : t.Inv := by
  obtain ⟨hclk, hload⟩ := hmb
  obtain ⟨c, hc⟩ | ⟨hfault, hcause, h7⟩ := hstatus
  · obtain ⟨hfault, hcause, -, -, -, h7⟩ := recordFault_fields c s.status
    rw [← hc] at hfault hcause h7
    refine ⟨h7.trans hs.statusReserved, fun h => ?_, fun _ => ?_, hctl, hclk, hload⟩
    · rw [hfault] at h
      cases h
    · rw [hcause]
      split
      next h => exact hs.causeOfFault h
      next => exact c.code_range
  · refine ⟨h7.trans hs.statusReserved, ?_, ?_, hctl, hclk, hload⟩
    · rw [hfault, hcause]
      exact hs.noCauseWithoutFault
    · rw [hfault, hcause]
      exact hs.causeOfFault

theorem runWord_keeps_inv {w : Word} {s t : State} (hs : s.Inv) (h : runWord w s = .next t) : t.Inv := by
  have hstatus := runWord_fault_or_same h
  obtain ⟨i, heffect⟩ | rfl := runWord_eq_next h
  · exact State.Inv.of_parts hs hstatus (heffect.segctl_lt hs.segctlReserved) (heffect.mb_resting hs.clockLow hs.latchHigh)
  · exact State.Inv.of_parts hs hstatus hs.segctlReserved ⟨hs.clockLow, hs.latchHigh⟩

/-- The reset input restores the resting values, whatever stood before (70_reset_and_hazards.md R270). -/
theorem resetBlock_inv (s : State) : (resetBlock s).Inv :=
  
  { statusReserved := (by decide : (0x00 : Byte).getLsbD 7 = false)
    noCauseWithoutFault := fun _ => (by decide : causeField 0x00 = 0)
    causeOfFault := fun h => absurd h (by decide : ¬ faultSeen 0x00 = true)
    segctlReserved := Nat.zero_lt_two
    clockLow := rfl
    latchHigh := rfl }

/-- Taking an input from the queue keeps the invariant, which does not speak of the queue. -/
theorem State.Inv.with_inbox {s : State} (hs : s.Inv) (rest : List HostInput) : State.Inv { s with inbox := rest } :=
  ⟨hs.statusReserved, hs.noCauseWithoutFault, hs.causeOfFault, hs.segctlReserved, hs.clockLow, hs.latchHigh⟩

/-- Settles O15: a command word has one of the effects above, and each keeps the invariant; the reset input restores it. -/
theorem stepKeepsTheInvariant : Obligations.StepKeepsTheInvariant := by
  intro s t hs h
  obtain ⟨input, rest, -, hrun⟩ := step_eq_next h
  cases input with
  | command w => exact runWord_keeps_inv (State.Inv.with_inbox hs rest) hrun
  | reset =>
    cases hrun
    exact resetBlock_inv _

/-! ## The parameters, and the writers of `status` -/

theorem runWord_cfg {w : Word} {s t : State} (h : runWord w s = .next t) : t.cfg = s.cfg := by
  obtain ⟨i, heffect⟩ | rfl := runWord_eq_next h
  · exact heffect.cfg_eq
  · rfl

/-- Settles O16: no effect of a command writes `cfg`, and the reset input keeps it. -/
theorem noStepChangesAParameter : Obligations.NoStepChangesAParameter := by
  refine ⟨fun i s t h => (effect_of_exec h).cfg_eq, fun s t h => ?_⟩
  obtain ⟨input, rest, -, hrun⟩ := step_eq_next h
  cases input with
  | command w => exact runWord_cfg (s := { s with inbox := rest }) hrun
  | reset =>
    cases hrun
    rfl

/-- Settles O19: each rule that writes `status` touches its own fields, and names the commands it belongs to. -/
theorem statusFieldsChangeOnlyAsStated : Obligations.StatusFieldsChangeOnlyAsStated := by
  intro i s t h
  change (ackLast t.status ≠ ackLast s.status → SendsBytes i) ∧
    (nackSeen s.status = false → nackSeen t.status = true → SendsBytes i) ∧
    (nackSeen s.status = true → nackSeen t.status = false → i = .statusClear) ∧
    (oorSeen s.status = false → oorSeen t.status = true → ChecksRange i) ∧
    (oorSeen s.status = true → oorSeen t.status = false → i = .statusClear) ∧
    t.status.getLsbD 7 = s.status.getLsbD 7 ∧
    (faultSeen t.status ≠ faultSeen s.status ∨ causeField t.status ≠ causeField s.status → faultOf i s ≠ none)
  have hwrite := (effect_of_exec h).statusWrite
  generalize t.status = st at hwrite ⊢
  cases hwrite with
  | none => simp +contextual
  | fault c hc => simp +contextual [-BitVec.getLsbD_eq_getElem, recordFault_fields c s.status, hc]
  | outOfRange hr => simp +contextual [-BitVec.getLsbD_eq_getElem, recordOor_fields s.status, hr]
  | acks hb levels =>
    obtain ⟨⟨hfault, hcause, h7⟩, hoor, hnack⟩ := statusAfterAcks_fields levels s.status
    simp +contextual [-BitVec.getLsbD_eq_getElem, hb, hfault, hcause, h7, hoor, hnack]
  | clear hi => simp +contextual [-BitVec.getLsbD_eq_getElem, clearSticky_fields s.status, hi]

/-! ## Faults through steps -/

/-- A recorded fault stays, and so does its cause: the first one is kept (60_exceptions.md R242, R245). -/
theorem fault_stays {st st' : Byte} (h : (∃ c, st' = recordFault c st) ∨ SameFault st st') (hst : faultSeen st = true) :
    faultSeen st' = true ∧ causeField st' = causeField st := by
  obtain ⟨c, rfl⟩ | hsame := h
  · obtain ⟨hfault, hcause, -⟩ := recordFault_fields c st
    exact ⟨hfault, hcause.trans (if_pos hst)⟩
  · exact ⟨hsame.fault.trans hst, hsame.cause⟩

/-- Settles O23: no command word touches a recorded fault, and the reset input puts `status` at 0. -/
theorem onlyResetClearsAFault : Obligations.OnlyResetClearsAFault := by
  refine ⟨fun s t w rest hin hfault h => ?_, fun s rest hin => ?_⟩
  · rw [step_of_inbox hin] at h
    exact fault_stays (runWord_fault_or_same (s := { s with inbox := rest }) h) hfault
  · exact ⟨_, step_of_inbox hin, (by decide : faultSeen 0x00 = false), (by decide : causeField 0x00 = 0)⟩

/-! ## The readers of the Frame and the Layer -/

/-- The state with another canvas. -/
def State.withCanvas (f : Vector Byte 8) (l : Vector Byte 4) (s : State) : State := { s with frame := f, layer := l }

/-- `t'` is `t` but for the canvas, and a part of the canvas that was `s`'s own is `t`'s own. -/
def SameButCanvas (f : Vector Byte 8) (l : Vector Byte 4) (s t t' : State) : Prop :=
  t' = t.withCanvas t'.frame t'.layer ∧ (f = s.frame → t'.frame = t.frame) ∧ (l = s.layer → t'.layer = t.layer)

/-- The readers of the Frame that can show it (10_state.md R22). -/
def ReadsFrame (i : Instr) : Prop := (∃ r c, i = .frameGet r c) ∨ (∃ r, i = .frameRowRead r) ∨ i = .mbRender

/-- The readers of the Layer (10_state.md R25). -/
def ReadsLayer (i : Instr) : Prop := (∃ k, i = .layerGet k) ∨ i = .segRender

/-- The canvas does not interfere: a command run on another canvas, with its own Frame if it reads the Frame and its own Layer
if it reads the Layer, leaves the same state but for the canvas (10_state.md R22, R25). -/
theorem exec_withCanvas (i : Instr) (s : State) (f : Vector Byte 8) (l : Vector Byte 4)
    (hf : ReadsFrame i → f = s.frame) (hl : ReadsLayer i → l = s.layer) :
    ∃ t t', exec i s = .next t ∧ exec i (s.withCanvas f l) = .next t' ∧ SameButCanvas f l s t t' := by
  cases i with
  | frameClear => exact ⟨_, _, rfl, rfl, rfl, fun _ => rfl, id⟩
  | frameGet row col =>
    obtain rfl := hf (.inl ⟨_, _, rfl⟩)
    simp only [exec, execFrameGet]
    split <;> exact ⟨_, _, rfl, rfl, rfl, id, id⟩
  | frameSet row col v =>
    simp only [exec, execFrameSet]
    split
    · exact ⟨_, _, rfl, rfl, rfl, by rintro rfl; rfl, id⟩
    · exact ⟨_, _, rfl, rfl, rfl, id, id⟩
  | frameSetRaw row col v =>
    simp only [exec, execFrameSetRaw]
    split
    · exact ⟨_, _, rfl, rfl, rfl, id, id⟩
    · split
      · exact ⟨_, _, rfl, rfl, rfl, by rintro rfl; rfl, id⟩
      · exact ⟨_, _, rfl, rfl, rfl, id, id⟩
  | frameRowRead row =>
    obtain rfl := hf (.inr (.inl ⟨_, rfl⟩))
    exact ⟨_, _, rfl, rfl, rfl, id, id⟩
  | frameRowWrite row data => exact ⟨_, _, rfl, rfl, rfl, by rintro rfl; rfl, id⟩
  | layerClear => exact ⟨_, _, rfl, rfl, rfl, id, fun _ => rfl⟩
  | layerGet index =>
    obtain rfl := hl (.inl ⟨_, rfl⟩)
    cases hk : slotIndex index with
    | none => exact ⟨_, _, exec_layerGet_outOfRange hk, exec_layerGet_outOfRange hk, rfl, id, id⟩
    | some k =>
      cases hc : encodeDigit s.cfg.digits (slot s k) with
      | ok code => exact ⟨_, _, exec_layerGet_ok hk hc, exec_layerGet_ok hk hc, rfl, id, id⟩
      | error c => exact ⟨_, _, exec_layerGet_error hk hc, exec_layerGet_error hk hc, rfl, id, id⟩
  | layerSet index raw =>
    simp only [exec, execLayerSet]
    split
    · exact ⟨_, _, rfl, rfl, rfl, id, by rintro rfl; rfl⟩
    · exact ⟨_, _, rfl, rfl, rfl, id, id⟩
  | mbInit =>
    simp only [exec, execMbInit, mbTransactions_eq]
    exact ⟨_, _, rfl, rfl, rfl, id, id⟩
  | mbRender =>
    obtain rfl := hf (.inr (.inr rfl))
    simp only [exec, execMbRender, mbTransactions_eq]
    exact ⟨_, _, rfl, rfl, rfl, id, id⟩
  | mbBrightness percent =>
    simp only [exec, execMbBrightness, mbTransaction_eq]
    split <;> exact ⟨_, _, rfl, rfl, rfl, id, id⟩
  | mbXfer addr data =>
    simp only [exec, execMbXfer, mbTransaction_eq]
    exact ⟨_, _, rfl, rfl, rfl, id, id⟩
  | segRender =>
    obtain rfl := hl (.inr rfl)
    cases hc : encodeSlots s.cfg.digits s.layer.toList with
    | ok codes => exact ⟨_, _, exec_segRender_ok hc, exec_segRender_ok hc, rfl, id, id⟩
    | error c => exact ⟨_, _, exec_segRender_error hc, exec_segRender_error hc, rfl, id, id⟩
  | segBrightness percent en =>
    simp only [exec, execSegBrightness, sbFrame_eq]
    split <;> exact ⟨_, _, rfl, rfl, rfl, id, id⟩
  | segConfig sep => exact ⟨_, _, rfl, rfl, rfl, id, id⟩
  | segStart =>
    simp only [exec, execSegStart, sbStart_eq]
    exact ⟨_, _, rfl, rfl, rfl, id, id⟩
  | segStop =>
    simp only [exec, execSegStop, sbStop_eq]
    exact ⟨_, _, rfl, rfl, rfl, id, id⟩
  | segWrite byte => exact ⟨_, _, exec_segWrite_eq byte _, exec_segWrite_eq byte _, rfl, id, id⟩
  | statusRead => exact ⟨_, _, rfl, rfl, rfl, id, id⟩
  | statusClear => exact ⟨_, _, rfl, rfl, rfl, id, id⟩

/-- Settles O17: the Frame's writers by the effects above, its readers by running on another Frame. -/
theorem onlyFrameCommandsTouchTheFrame : Obligations.OnlyFrameCommandsTouchTheFrame := by
  refine ⟨fun i s t h => (effect_of_exec h).writesFrame, fun i s t f h hget hrow hrender => ?_⟩
  have hreads : ¬ ReadsFrame i := by
    rintro (⟨r, c, hi⟩ | ⟨r, hi⟩ | hi)
    exacts [hget r c hi, hrow r hi, hrender hi]
  obtain ⟨t₀, t', h₀, h', hsame, -, hlayer⟩ := exec_withCanvas i s f s.layer (fun hr => absurd hr hreads) fun _ => rfl
  rw [h] at h₀
  cases h₀
  rw [hlayer rfl] at hsame
  exact ⟨t', h', hsame⟩

/-- Settles O18: the Layer's writers by the effects above, its readers by running on another Layer. -/
theorem onlyLayerCommandsTouchTheLayer : Obligations.OnlyLayerCommandsTouchTheLayer := by
  refine ⟨fun i s t h => (effect_of_exec h).writesLayer, fun i s t l h hget hrender => ?_⟩
  have hreads : ¬ ReadsLayer i := by
    rintro (⟨k, hi⟩ | hi)
    exacts [hget k hi, hrender hi]
  obtain ⟨t₀, t', h₀, h', hsame, hframe, -⟩ := exec_withCanvas i s s.frame l (fun _ => rfl) fun hr => absurd hr hreads
  rw [h] at h₀
  cases h₀
  rw [hframe rfl] at hsame
  exact ⟨t', h', hsame⟩

/-! ## Reset -/

/-- Settles O12: the reset state is written out in the model. -/
theorem resetLeavesTheStatedValues : Obligations.ResetLeavesTheStatedValues :=
  ⟨by decide, by decide, rfl, rfl, rfl, rfl, rfl, rfl⟩

end Sys2Proof.Machine
end

section
/-! The statements of 20_memory.md: the byte port (R69), repeated reads (R72), what a matrix target latches (R66, R68), and the
one bus a command uses (R74). -/

namespace Sys2Proof.Machine

/-! ## The byte port -/

/-- Any number of bytes but four makes no command word (log entry 14). -/
theorem decodePort_of_length_ne {bytes : List Byte} (h : bytes.length ≠ 4) :
    decodePort bytes = .error (.portLength bytes.length) := by
  rw [decodePort]
  rintro op a b c rfl
  exact h rfl

/-- Settles O7: the four bytes are the fields of the word, which is put together from them again. -/
theorem bytePortCarriesOpFirst : Obligations.BytePortCarriesOpFirst :=
  ⟨fun _ _ _ _ => rfl, fun w => congrArg decode (wordOf_fields w), fun _ => decodePort_of_length_ne⟩

/-! ## Repeated reads -/

/-- A fault recorded over another changes nothing: FAULT is set and the first cause is kept (60_exceptions.md R242). -/
theorem recordFault_of_faultSeen (c : FaultCause) {st : Byte} (h : faultSeen st = true) : recordFault c st = st := by
  revert st
  cases c <;> decide

/-- Recording an out-of-range access twice is recording it once (10_state.md R31). -/
theorem recordOor_recordOor (st : Byte) : recordOor (recordOor st) = recordOor st := by
  revert st
  decide

theorem exec_frameGet_inRange {row col : Byte} {r c : Fin 8} {s : State} (hr : coord row = some r)
    (hc : coord col = some c) : exec (.frameGet row col) s = .next { s with result := zextBit (pixel s r c) } := by
  simp only [exec, execFrameGet, hr, hc, finish_eq]

theorem exec_frameGet_outOfRange {row col : Byte} {s : State} (h : coord row = none ∨ coord col = none) :
    exec (.frameGet row col) s = .next { setOor s with result := 0x00 } := by
  obtain h | h := h
  · simp only [exec, execFrameGet, h, finish_eq]
  · cases hr : coord row <;> simp only [exec, execFrameGet, h, hr, finish_eq]

/-- A second out-of-range read finds OOR_SEEN and its own result already there. -/
theorem setOor_repeated (s : State) (v : Byte) :
    { setOor { setOor s with result := v } with result := v } = { setOor s with result := v } := by
  simp only [setOor, recordOor_recordOor]

/-- A second fault leaves the state as the first one left it (60_exceptions.md R242). -/
theorem raiseFault_raiseFault (c : FaultCause) (s : State) : raiseFault c (raiseFault c s) = raiseFault c s := by
  have hfault : faultSeen (recordFault c s.status) = true := (recordFault_fields c s.status).1
  simp only [raiseFault, recordFault_of_faultSeen c hfault]

theorem exec_frameGet_repeated (row col : Byte) (s : State) :
    ∃ t, exec (.frameGet row col) s = .next t ∧ exec (.frameGet row col) t = .next t := by
  cases hr : coord row with
  | none =>
    refine ⟨_, exec_frameGet_outOfRange (.inl hr), ?_⟩
    rw [exec_frameGet_outOfRange (.inl hr), setOor_repeated]
  | some r =>
    cases hc : coord col with
    | none =>
      refine ⟨_, exec_frameGet_outOfRange (.inr hc), ?_⟩
      rw [exec_frameGet_outOfRange (.inr hc), setOor_repeated]
    | some c => exact ⟨_, exec_frameGet_inRange hr hc, exec_frameGet_inRange hr hc⟩

theorem exec_layerGet_repeated (index : Byte) (s : State) :
    ∃ t, exec (.layerGet index) s = .next t ∧ exec (.layerGet index) t = .next t := by
  cases hk : slotIndex index with
  | none =>
    refine ⟨_, exec_layerGet_outOfRange hk, ?_⟩
    rw [exec_layerGet_outOfRange hk, setOor_repeated]
  | some k =>
    cases hc : encodeDigit s.cfg.digits (slot s k) with
    | ok code => exact ⟨_, exec_layerGet_ok hk hc, exec_layerGet_ok hk hc⟩
    | error c =>
      refine ⟨_, exec_layerGet_error hk hc, ?_⟩
      rw [exec_layerGet_error (s := raiseFault c s) hk hc, raiseFault_raiseFault]

/-- Settles O59: the answer of a read does not depend on what the read itself wrote, and recording the same out-of-range access
or the same fault again changes nothing. -/
theorem repeatedReadsChangeNothing : Obligations.RepeatedReadsChangeNothing := by
  intro i s t hread h
  have hrepeated : ∃ t', exec i s = .next t' ∧ exec i t' = .next t' := by
    obtain ⟨row, col, rfl⟩ | ⟨row, rfl⟩ | ⟨index, rfl⟩ | rfl := hread
    · exact exec_frameGet_repeated row col s
    · exact ⟨_, rfl, rfl⟩
    · exact exec_layerGet_repeated index s
    · exact ⟨_, rfl, rfl⟩
  obtain ⟨t', ht', hrep⟩ := hrepeated
  rw [h] at ht'
  cases ht'
  exact hrep

/-! ## What a matrix target latches -/

/-- The bit positions of a byte in the order the matrix bus sends them, MSB first. -/
def byteBitOrder : List Nat := [7, 6, 5, 4, 3, 2, 1, 0]

/-- A matrix-bus word carries its address MSB first, then its data MSB first (20_memory.md R66). -/
theorem mbWordBits_eq (addr data : Byte) :
    mbWordBits (addr, data) = byteBitOrder.map addr.getLsbD ++ byteBitOrder.map data.getLsbD := by
  have horder : mbBitOrder = byteBitOrder.map (· + 8) ++ byteBitOrder := rfl
  have haddr : ∀ j, (addr ++ data).getLsbD (j + 8) = addr.getLsbD j := fun j => by
    rw [BitVec.getLsbD_append, if_neg (by omega), Nat.add_sub_cancel]
  have hdata : ∀ j ∈ byteBitOrder, (addr ++ data).getLsbD j = data.getLsbD j := fun j hj => by
    have hlt : ∀ k ∈ byteBitOrder, k < 8 := by decide
    rw [BitVec.getLsbD_append, if_pos (hlt j hj)]
  rw [mbWordBits, horder, List.map_append, List.map_map, List.map_congr_left hdata]
  exact congrArg (· ++ _) (List.map_congr_left fun j _ => haddr j)

/-- From resting lines a target latches a single transaction as its word. -/
theorem matrixWords_word (edge : ClockEdge) (w : Byte × Byte) (l : MbLines) (hclk : l.clk = false) (hload : l.load = true) :
    matrixWords edge l (mbWordEvents w) = [mbWordBits w] := by
  have h := matrixWords_flatMap edge [w] l hclk hload
  rwa [List.flatMap_singleton] at h

/-- MB_BRIGHTNESS up to 100 percent is one transaction (42_matrix_bus.md R166). -/
theorem exec_mbBrightness_inRange {p : Byte} (s : State) (h : p.toNat ≤ 100) :
    exec (.mbBrightness p) s = finish 0x00 (mbTransaction s.cfg.mbRegIntensity (mbIntensity p) s) :=
  if_neg (Nat.not_lt.mpr h)

/-- A transaction leaves a trace in which a target that rests reads its word. -/
theorem mbTransaction_latched (edge : ClockEdge) (addr data : Byte) {s : State} (hclk : s.mb.clk = false)
    (hload : s.mb.load = true) :
    ∃ t es, finish 0x00 (mbTransaction addr data s) = .next t ∧ t.trace = s.trace ++ es ∧
      matrixWords edge s.mb es = [mbWordBits (addr, data)] := by
  rw [mbTransaction_eq]
  exact ⟨_, _, rfl, rfl, matrixWords_word edge (addr, data) s.mb hclk hload⟩

/-- Transactions leave a trace in which a target that rests reads their words. -/
theorem mbTransactions_latched (edge : ClockEdge) (words : List (Byte × Byte)) {s : State} (hclk : s.mb.clk = false)
    (hload : s.mb.load = true) :
    ∃ t es, finish 0x00 (mbTransactions words s) = .next t ∧ t.trace = s.trace ++ es ∧
      matrixWords edge s.mb es = words.map mbWordBits := by
  rw [mbTransactions_eq]
  exact ⟨_, _, rfl, rfl, matrixWords_flatMap edge words s.mb hclk hload⟩

/-- Settles O45: each of the commands is whole transactions, and a resting target latches their words. -/
theorem matrixTargetLatchesTheWords : Obligations.MatrixTargetLatchesTheWords := by
  intro edge s hclk hload
  refine ⟨fun addr data => mbTransaction_latched edge addr data hclk hload,
    mbTransactions_latched edge (mbInitWords s.cfg) hclk hload, fun p hp => ?_⟩
  rw [exec_mbBrightness_inRange s hp]
  exact mbTransaction_latched edge _ _ hclk hload

/-- Row r goes to register address r + 1 (20_memory.md R64). -/
theorem mbRowAddress_eq (r : Fin 8) : mbRowAddress r = BitVec.ofNat 8 (r.val + 1) := by
  revert r
  decide

/-- Data bit c of a rendered row is pixel (r, c): the reversal undoes the Frame's column order (20_memory.md R61, R68). -/
theorem rev8_frameRow_getLsbD (s : State) (r c : Fin 8) : (rev8 s.frame[r]).getLsbD c.val = pixel s r c :=
  rev8_getLsbD s.frame[r] c.val c.isLt

/-- The word of a rendered row: its address, then its pixels from column 7 down (42_matrix_bus.md R164, R169). -/
theorem mbWordBits_renderRow (s : State) (r : Fin 8) :
    mbWordBits (mbRowAddress r, rev8 s.frame[r]) =
      byteBitOrder.map (BitVec.ofNat 8 (r.val + 1)).getLsbD ++
        ([7, 6, 5, 4, 3, 2, 1, 0] : List (Fin 8)).map (pixel s r) := by
  have hdata := calc
    byteBitOrder.map (rev8 s.frame[r]).getLsbD
    _ = ([7, 6, 5, 4, 3, 2, 1, 0] : List (Fin 8)).map fun c => (rev8 s.frame[r]).getLsbD c.val := rfl
    _ = ([7, 6, 5, 4, 3, 2, 1, 0] : List (Fin 8)).map (pixel s r) :=
      List.map_congr_left fun c _ => rev8_frameRow_getLsbD s r c
  rw [mbWordBits_eq, mbRowAddress_eq, hdata]

/-- Settles O46: a resting target latches the words of the render, and each is a row's address and pixels. -/
theorem matrixTargetReceivesTheFrame : Obligations.MatrixTargetReceivesTheFrame := by
  intro edge s hclk hload
  obtain ⟨t, es, hexec, htrace, hwords⟩ := mbTransactions_latched edge (mbRenderWords s.frame) hclk hload
  refine ⟨t, es, hexec, htrace, ?_⟩
  rw [hwords, mbRenderWords, List.map_map]
  exact List.map_congr_left fun r _ => mbWordBits_renderRow s r

/-! ## The bus of an event -/

/-- All the events are of the matrix bus. -/
def OnMatrixBus (es : List Event) : Prop := ∀ e ∈ es, e.isMatrix = true

/-- All the events are of the segment bus. -/
def OnSegmentBus (es : List Event) : Prop := ∀ e ∈ es, e.isMatrix = false

theorem OnSegmentBus.append {es es' : List Event} (h : OnSegmentBus es) (h' : OnSegmentBus es') :
    OnSegmentBus (es ++ es') :=
  List.forall_mem_append.mpr ⟨h, h'⟩

theorem onMatrixBus_mbWordEvents (w : Byte × Byte) : OnMatrixBus (mbWordEvents w) := by
  have hbit : ∀ v, ∀ e ∈ mbBitEvents v, e.isMatrix = true := by decide
  have hbits : OnMatrixBus ((mbWordBits w).flatMap mbBitEvents) := List.forall_mem_flatMap.mpr fun v _ => hbit v
  simpa [OnMatrixBus, mbWordEvents, Event.isMatrix, or_imp, forall_and] using hbits

theorem onMatrixBus_transactions (words : List (Byte × Byte)) : OnMatrixBus (words.flatMap mbWordEvents) :=
  List.forall_mem_flatMap.mpr fun w _ => onMatrixBus_mbWordEvents w

theorem onSegmentBus_sbStartEvents : OnSegmentBus sbStartEvents := by
  unfold OnSegmentBus
  decide

theorem onSegmentBus_sbStopEvents : OnSegmentBus sbStopEvents := by
  unfold OnSegmentBus
  decide

theorem onSegmentBus_sbByteEvents (b : Byte) (lvl : Bool) : OnSegmentBus (sbByteEvents b lvl) := by
  have hbit : ∀ v, ∀ e ∈ sbBitEvents v, e.isMatrix = false := by decide
  have hack : ∀ v, ∀ e ∈ sbAckEvents v, e.isMatrix = false := by decide
  exact OnSegmentBus.append (List.forall_mem_flatMap.mpr fun v _ => hbit v) (hack lvl)

theorem onSegmentBus_sbBytesEvents (sent : List (Byte × Bool)) : OnSegmentBus (sbBytesEvents sent) := by
  induction sent with
  | nil => exact List.forall_mem_nil _
  | cons x rest ih => exact (onSegmentBus_sbByteEvents x.1 x.2).append ih

theorem onSegmentBus_frame (sent : List (Byte × Bool)) :
    OnSegmentBus (sbStartEvents ++ sbBytesEvents sent ++ sbStopEvents) :=
  (onSegmentBus_sbStartEvents.append (onSegmentBus_sbBytesEvents sent)).append onSegmentBus_sbStopEvents

/-! ## The bus of a command -/

/-- The commands of the matrix-bus sequencer (10_state.md R36). -/
def UsesMatrixBus (i : Instr) : Prop := i = .mbInit ∨ i = .mbRender ∨ (∃ p, i = .mbBrightness p) ∨ ∃ a d, i = .mbXfer a d

/-- The commands of the segment-bus sequencer (10_state.md R37); SEG_CONFIG is none of them (log entry 9). -/
def UsesSegmentBus (i : Instr) : Prop :=
  i = .segStart ∨ i = .segStop ∨ i = .segRender ∨ (∃ p en, i = .segBrightness p en) ∨ ∃ b, i = .segWrite b

theorem UsesMatrixBus.eventCount_ne_zero {i : Instr} (h : UsesMatrixBus i) : eventCount i ≠ 0 := by
  obtain rfl | rfl | ⟨p, rfl⟩ | ⟨a, d, rfl⟩ := h <;> simp [eventCount]

theorem UsesSegmentBus.eventCount_ne_zero {i : Instr} (h : UsesSegmentBus i) : eventCount i ≠ 0 := by
  obtain rfl | rfl | rfl | ⟨p, en, rfl⟩ | ⟨b, rfl⟩ := h <;> simp [eventCount]

/-- What the command `i` did from `s` to `t` to the trace, the lines of the two buses and `segctl` (10_state.md R35 to R38). -/
inductive BusUse (i : Instr) (s t : State) : Prop where
  | silent (htrace : t.trace = s.trace) (hmb : t.mb = s.mb) (hsb : t.sb = s.sb) (hctl : t.segctl = s.segctl)
  /-- SEG_CONFIG, which emits nothing (43_segment_bus.md R203; log entry 9). -/
  | config (hi : ∃ sep, i = .segConfig sep) (htrace : t.trace = s.trace) (hmb : t.mb = s.mb) (hsb : t.sb = s.sb)
  | matrix (hi : UsesMatrixBus i) {es : List Event} (hes : OnMatrixBus es) (htrace : t.trace = s.trace ++ es)
      (hsb : t.sb = s.sb) (hctl : t.segctl = s.segctl)
  | segment (hi : UsesSegmentBus i) {es : List Event} (hes : OnSegmentBus es) (htrace : t.trace = s.trace ++ es)
      (hmb : t.mb = s.mb) (hctl : t.segctl = s.segctl)

/-- Transactions use the matrix bus alone (42_matrix_bus.md R160). -/
theorem mbTransactions_busUse {i : Instr} (hi : UsesMatrixBus i) (words : List (Byte × Byte)) (s : State) :
    ∃ t, finish 0x00 (mbTransactions words s) = .next t ∧ BusUse i s t := by
  rw [mbTransactions_eq]
  exact ⟨_, rfl, .matrix hi (onMatrixBus_transactions words) rfl rfl rfl⟩

theorem mbTransaction_busUse {i : Instr} (hi : UsesMatrixBus i) (addr data : Byte) (s : State) :
    ∃ t, finish 0x00 (mbTransaction addr data s) = .next t ∧ BusUse i s t :=
  mbTransactions_busUse hi [(addr, data)] s

/-- Every command completes, with one of the uses above. -/
theorem exec_busUse (i : Instr) (s : State) : ∃ t, exec i s = .next t ∧ BusUse i s t := by
  cases i with
  | frameClear => exact ⟨_, rfl, .silent rfl rfl rfl rfl⟩
  | frameGet row col =>
    rw [exec, execFrameGet]
    split <;> exact ⟨_, rfl, .silent rfl rfl rfl rfl⟩
  | frameSet row col v =>
    rw [exec, execFrameSet]
    split <;> exact ⟨_, rfl, .silent rfl rfl rfl rfl⟩
  | frameSetRaw row col v =>
    rw [exec, execFrameSetRaw]
    split
    · exact ⟨_, rfl, .silent rfl rfl rfl rfl⟩
    · split <;> exact ⟨_, rfl, .silent rfl rfl rfl rfl⟩
  | frameRowRead row => exact ⟨_, rfl, .silent rfl rfl rfl rfl⟩
  | frameRowWrite row data => exact ⟨_, rfl, .silent rfl rfl rfl rfl⟩
  | layerClear => exact ⟨_, rfl, .silent rfl rfl rfl rfl⟩
  | layerGet index =>
    cases hk : slotIndex index with
    | none => exact ⟨_, exec_layerGet_outOfRange hk, .silent rfl rfl rfl rfl⟩
    | some k =>
      cases hc : encodeDigit s.cfg.digits (slot s k) with
      | ok code => exact ⟨_, exec_layerGet_ok hk hc, .silent rfl rfl rfl rfl⟩
      | error c => exact ⟨_, exec_layerGet_error hk hc, .silent rfl rfl rfl rfl⟩
  | layerSet index raw =>
    rw [exec, execLayerSet]
    split <;> exact ⟨_, rfl, .silent rfl rfl rfl rfl⟩
  | mbInit => exact mbTransactions_busUse (.inl rfl) _ s
  | mbRender => exact mbTransactions_busUse (.inr (.inl rfl)) _ s
  | mbBrightness percent =>
    rw [exec, execMbBrightness]
    split
    · exact ⟨_, rfl, .silent rfl rfl rfl rfl⟩
    · exact mbTransaction_busUse (.inr (.inr (.inl ⟨_, rfl⟩))) _ _ s
  | mbXfer addr data => exact mbTransaction_busUse (.inr (.inr (.inr ⟨_, _, rfl⟩))) addr data s
  | segRender =>
    cases hc : encodeSlots s.cfg.digits s.layer.toList with
    | ok codes =>
      exact ⟨_, exec_segRender_ok hc, .segment (.inr (.inr (.inl rfl)))
        ((onSegmentBus_frame _).append (onSegmentBus_frame _)) rfl rfl rfl⟩
    | error c => exact ⟨_, exec_segRender_error hc, .silent rfl rfl rfl rfl⟩
  | segBrightness percent en =>
    rw [exec, execSegBrightness]
    split
    · exact ⟨_, rfl, .silent rfl rfl rfl rfl⟩
    · rw [sbFrame_eq]
      exact ⟨_, rfl, .segment (.inr (.inr (.inr (.inl ⟨_, _, rfl⟩)))) (onSegmentBus_frame _) rfl rfl rfl⟩
  | segConfig sep => exact ⟨_, rfl, .config ⟨sep, rfl⟩ rfl rfl rfl⟩
  | segStart =>
    rw [exec, execSegStart, sbStart_eq]
    exact ⟨_, rfl, .segment (.inl rfl) onSegmentBus_sbStartEvents rfl rfl rfl⟩
  | segStop =>
    rw [exec, execSegStop, sbStop_eq]
    exact ⟨_, rfl, .segment (.inr (.inl rfl)) onSegmentBus_sbStopEvents rfl rfl rfl⟩
  | segWrite byte =>
    exact ⟨_, exec_segWrite_eq byte s, .segment (.inr (.inr (.inr (.inr ⟨_, rfl⟩)))) (onSegmentBus_sbByteEvents byte _)
      rfl rfl rfl⟩
  | statusRead => exact ⟨_, rfl, .silent rfl rfl rfl rfl⟩
  | statusClear => exact ⟨_, rfl, .silent rfl rfl rfl rfl⟩

section
variable {i : Instr} {s t : State}

theorem busUse_of_exec (h : exec i s = .next t) : BusUse i s t := by
  obtain ⟨t', ht', huse⟩ := exec_busUse i s
  rw [h] at ht'
  cases ht'
  exact huse

/-- The trace is only appended to, with the events of one bus, and by a sequencer command (20_memory.md R74). -/
theorem BusUse.appends (h : BusUse i s t) :
    ∃ es, t.trace = s.trace ++ es ∧ (OnMatrixBus es ∧ t.sb = s.sb ∨ OnSegmentBus es ∧ t.mb = s.mb) ∧
      (es ≠ [] → eventCount i ≠ 0) := by
  have hnil : s.trace = s.trace ++ [] := (List.append_nil _).symm
  cases h with
  | silent htrace _ hsb _ => exact ⟨[], htrace.trans hnil, .inl ⟨List.forall_mem_nil _, hsb⟩, (absurd rfl ·)⟩
  | config _ htrace _ hsb => exact ⟨[], htrace.trans hnil, .inl ⟨List.forall_mem_nil _, hsb⟩, (absurd rfl ·)⟩
  | matrix hi hes htrace hsb _ => exact ⟨_, htrace, .inl ⟨hes, hsb⟩, fun _ => hi.eventCount_ne_zero⟩
  | segment hi hes htrace hmb _ => exact ⟨_, htrace, .inr ⟨hes, hmb⟩, fun _ => hi.eventCount_ne_zero⟩

theorem BusUse.movesMatrixLines (h : BusUse i s t) (hne : t.mb ≠ s.mb) : UsesMatrixBus i := by
  cases h with
  | matrix hi => exact hi
  | silent _ hmb | config _ _ hmb | segment _ _ _ hmb => exact absurd hmb hne

theorem BusUse.movesSegmentLines (h : BusUse i s t) (hne : t.sb ≠ s.sb) : UsesSegmentBus i := by
  cases h with
  | segment hi => exact hi
  | silent _ _ hsb | config _ _ _ hsb | matrix _ _ _ hsb => exact absurd hsb hne

theorem BusUse.writesSegctl (h : BusUse i s t) (hne : t.segctl ≠ s.segctl) : ∃ sep, i = .segConfig sep := by
  cases h with
  | config hi => exact hi
  | silent _ _ _ hctl | matrix _ _ _ _ hctl | segment _ _ _ _ hctl => exact absurd hctl hne

end

/-- Settles O20: every command uses no bus or one, and each clause is read off the kind of use. -/
theorem commandsUseOneBusAndAppend : Obligations.CommandsUseOneBusAndAppend := fun _ _ _ h =>
  have huse := busUse_of_exec h
  ⟨huse.appends, huse.movesMatrixLines, huse.movesSegmentLines, huse.writesSegctl⟩

end Sys2Proof.Machine
end

section
/-! The statements of 30_encoding.md: the decoder against the encoder and the opcode map (R82, R84 to R86), what a step does with
a word (R80, R81), the assembler (R89, R90), the pseudo-commands on the canvas (R91, R92, R97, R98), and what a segment target
receives (R100). -/

namespace Sys2Proof.Machine

/-! ## The decoder on every word -/

/-- On the word of a command the decoder checks exactly what well-formedness asks (30_encoding.md R82, R84). -/
theorem decode_encode (i : Instr) : decode (encode i) = whenZero i.wellFormed (opField (encode i)) i := by
  cases i <;> simp [encode, decode, Instr.wellFormed]

theorem decode_encode_of_wellFormed {i : Instr} (h : i.wellFormed = true) : decode (encode i) = .ok i := by
  rw [decode_encode, h, whenZero, if_pos rfl]

/-- Settles O1: the format check gives the command when it is well formed, and must-be-zero otherwise. -/
theorem decodeAfterEncode : Obligations.DecodeAfterEncode := by
  refine fun i => ⟨decode_encode_of_wellFormed, fun h => ⟨opField (encode i), ?_⟩⟩
  rw [decode_encode, h, whenZero, if_neg Bool.false_ne_true]

theorem opRow_holds_iff (r : OpRow) (w : Word) : r.holds w = true ↔ w &&& r.mask = r.pattern := beq_iff_eq

/-- A row's test, field by field (30_encoding.md R82, R84). -/
theorem opRow_holds_iff_fields (r : OpRow) (op a b c : Byte) :
    r.holds (wordOf op a b c) = true ↔
      op &&& opField r.mask = opField r.pattern ∧ a &&& aField r.mask = aField r.pattern ∧
        b &&& bField r.mask = bField r.pattern ∧ c &&& cField r.mask = cField r.pattern := by
  rw [← OpRow.holds_wordOf, wordOf_fields, wordOf_fields]

/-- A field that is constant as a whole has every bit under its mask (30_encoding.md R82). -/
theorem and_constantField (f : Byte) : f &&& 255#8 = f := BitVec.and_allOnes

theorem and_bitField_eq_zero (f : Byte) : f &&& 254#8 = 0#8 ↔ f.toNat ≤ 1 :=
  (isBitField_mask f).symm.trans (decide_eq_true_iff.trans Nat.lt_succ_iff)

theorem and_rowField_eq_zero (f : Byte) : f &&& 248#8 = 0#8 ↔ f.toNat < 8 :=
  (isRowField_mask f).symm.trans decide_eq_true_iff

/-- The OP values of no command (30_encoding.md R86). -/
def IsReservedOp (op : Nat) : Prop :=
  op = 0x00 ∨ (0x07 ≤ op ∧ op ≤ 0x10) ∨ (0x14 ≤ op ∧ op ≤ 0x20) ∨ (0x25 ≤ op ∧ op ≤ 0x30) ∨
    (0x37 ≤ op ∧ op ≤ 0x40) ∨ 0x43 ≤ op

/-- What the decoder makes of a word: it checks the format of the command `i` that stands in the row of the word's OP value, or
rejects a reserved OP value (30_encoding.md R84 to R86). -/
inductive Decoding (w : Word) (d : Except Rejection Instr) : Prop where
  /-- The check is the row's test, and a word that passes it is the word of `i`, with the operand fields of the word. -/
  | format (i : Instr) (constantsHold : Bool) (hop : opField i.row.pattern = opField w)
      (hrow : constantsHold = i.row.holds w) (hword : constantsHold = true → i.wellFormed = true ∧ encode i = w)
      (hd : d = whenZero constantsHold (opField w) i)
  | reserved (hres : IsReservedOp (opField w).toNat) (hd : d = .error (.reservedOp (opField w)))

/-- Every arm of the decoder is one of the two: the default arm rejects a reserved OP value, and an arm of a command checks
the constant fields of its row. The row is written out before its fields are taken, so that these are literals. -/
theorem decoding_decode (w : Word) : Decoding w (decode w) := by
  obtain ⟨op, a, b, c, rfl⟩ : ∃ op a b c, wordOf op a b c = w := ⟨_, _, _, _, wordOf_fields w⟩
  have hop := opField_wordOf op a b c
  rw [decode, aField_wordOf, bField_wordOf, cField_wordOf]
  split
  case h_22 =>
    refine .reserved ?_ rfl
    simp only [imp_false] at *
    unfold IsReservedOp
    omega
  all_goals
    next hvalue =>
    rw [hop] at hvalue
    obtain ⟨-, rfl⟩ := BitVec.toNat_eq_nat.mp hvalue
    refine .format _ _ ?_ ?_ ?_ rfl
    · rw [hop, Instr.row]
      rfl
    · rw [Bool.eq_iff_iff, Instr.row, opRow_holds_iff_fields]
      simp [opField, aField, bField, cField, and_constantField, and_bitField_eq_zero, and_rowField_eq_zero, and_assoc]
    · simp +contextual [Instr.wellFormed, encode]

/-- A word decodes to a command only through the check of its format. -/
theorem decode_eq_ok {w : Word} {i : Instr} (h : decode w = .ok i) :
    i.row.holds w = true ∧ i.wellFormed = true ∧ encode i = w := by
  cases decoding_decode w with
  | format j constantsHold _ hrow hword hd =>
    obtain ⟨rfl, rfl⟩ := (whenZero_eq_ok _ _ _ _).mp (hd ▸ h)
    exact ⟨hrow.symm, hword rfl⟩
  | reserved _ hd => cases hd.symm.trans h

/-- Settles O2: what the format check of a command lets pass is the word of that command. -/
theorem encodeAfterDecode : Obligations.EncodeAfterDecode := fun _ _ h => (decode_eq_ok h).2

/-! ## The opcode map -/

theorem row_mem_opcodeMap (i : Instr) : i.row ∈ opcodeMap := by
  cases i <;> rw [Instr.row] <;> decide

theorem opcodeMap_not_reserved : ∀ r ∈ opcodeMap, ¬ IsReservedOp (opField r.pattern).toNat := by
  unfold IsReservedOp
  decide

/-- Every row tests the whole of OP, so a word has the OP value of the row it lies in (30_encoding.md R85). -/
theorem opField_of_holds {r : OpRow} {w : Word} (hr : r ∈ opcodeMap) (h : r.holds w = true) :
    opField r.pattern = opField w := by
  have hmask : ∀ r ∈ opcodeMap, opField r.mask = 255#8 := by decide
  rw [← wordOf_fields w, opRow_holds_iff_fields, hmask r hr, and_constantField] at h
  exact h.1.symm

/-- No two rows have the same OP value (30_encoding.md R85). -/
theorem opcodeMap_ext_opField : ∀ r ∈ opcodeMap, ∀ r' ∈ opcodeMap, opField r.pattern = opField r'.pattern → r = r' := by
  decide

theorem opcodeMap_unique {r r' : OpRow} {w : Word} (hr : r ∈ opcodeMap) (hr' : r' ∈ opcodeMap) (h : r.holds w = true)
    (h' : r'.holds w = true) : r = r' :=
  opcodeMap_ext_opField r hr r' hr' ((opField_of_holds hr h).trans (opField_of_holds hr' h').symm)

/-- A word of a row decodes to a command of the row (30_encoding.md R84). -/
theorem decode_of_holds {r : OpRow} {w : Word} (hr : r ∈ opcodeMap) (h : r.holds w = true) :
    ∃ i, decode w = .ok i ∧ i.row = r := by
  have hw := opField_of_holds hr h
  cases decoding_decode w with
  | format i constantsHold hop hrow _ hd =>
    obtain rfl := opcodeMap_ext_opField _ (row_mem_opcodeMap i) r hr (hop.trans hw.symm)
    exact ⟨i, by rw [hd, hrow, h, whenZero, if_pos rfl], rfl⟩
  | reserved hres _ => exact absurd (hw ▸ hres) (opcodeMap_not_reserved r hr)

/-- Settles O6: a format check names no reserved OP value, and its row's OP value is not reserved. -/
theorem reservedOpcodesAreRejected : Obligations.ReservedOpcodesAreRejected := by
  intro w
  change _ ↔ IsReservedOp (opField w).toNat
  cases decoding_decode w with
  | format i constantsHold hop _ _ hd =>
    rw [hd, ← hop]
    refine iff_of_false ?_ (opcodeMap_not_reserved _ (row_mem_opcodeMap i))
    cases constantsHold <;> simp [whenZero]
  | reserved hres hd => exact iff_of_true ⟨_, hd⟩ hres

/-- Settles O4: the map written out. -/
theorem opcodeMapHasTheListedRows : Obligations.OpcodeMapHasTheListedRows := rfl

/-- Settles O5: the decoder evaluated on the example words. -/
theorem exampleWordsDecode : Obligations.ExampleWordsDecode := by
  unfold Obligations.ExampleWordsDecode
  decide

/-! ## Steps -/

/-- A word of no command records ILLEGAL_COMMAND and nothing else (30_encoding.md R84). -/
theorem runWord_error {w : Word} {e : Rejection} (h : decode w = .error e) (s : State) :
    runWord w s = .next (raiseFault .illegalCommand s) := by
  rw [runWord, h, raise_eq]

theorem runWord_ok {w : Word} {i : Instr} (h : decode w = .ok i) (s : State) : runWord w s = exec i s := by
  rw [runWord, h]

/-- Settles O3: the rows against the decoder in both directions, and a word of no row does not decode. -/
theorem decodingFollowsTheOpcodeMap : Obligations.DecodingFollowsTheOpcodeMap := by
  simp only [Obligations.DecodingFollowsTheOpcodeMap, ne_eq, ← opRow_holds_iff]
  refine ⟨fun w i h => ⟨row_mem_opcodeMap i, (decode_eq_ok h).1⟩, fun w r => decode_of_holds,
    fun w r r' => opcodeMap_unique, fun s w rest hin hnone => ?_⟩
  rw [step_of_inbox hin, runInput]
  cases hd : decode w with
  | ok i => exact absurd (decode_eq_ok hd).1 (hnone i.row (row_mem_opcodeMap i))
  | error e => exact runWord_error hd _

/-- Settles O10: the step takes the head of the queue, and `runWord` decides by the decoder. -/
theorem stepRunsTheNextCommand : Obligations.StepRunsTheNextCommand := by
  refine ⟨fun s w rest i hin hd => ?_, fun s w rest e hin hd => ?_, fun s hin => ?_, fun s i hwf => ?_⟩
  · rw [step_of_inbox hin, runInput, runWord_ok hd]
  · rw [step_of_inbox hin, runInput, runWord_error hd]
    rfl
  · rw [step, takeInput, hin]
  · have hword : BitVec.ofNat 32 ((encode i).toNat % 2 ^ 32) = encode i := by
      rw [Nat.mod_eq_of_lt (encode i).isLt, BitVec.ofNat_toNat, BitVec.setWidth_eq]
    have hin : (s.withFetchWord 32 (encode i).toNat).inbox = .command (encode i) :: s.inbox := by
      rw [State.withFetchWord, withCommand, hword]
    rw [step_of_inbox hin, runInput, runWord_ok (decode_encode_of_wellFormed hwf)]
    rfl

theorem Effect.inbox_eq {s t : State} {i : Instr} (h : Effect s i t) : t.inbox = s.inbox := by
  cases h <;> rfl

theorem exec_completes (i : Instr) (s : State) : ∃ t, exec i s = .next t ∧ t.inbox = s.inbox := by
  obtain ⟨t, ht, heffect⟩ := exec_effect i s
  exact ⟨t, ht, heffect.inbox_eq⟩

/-- An input of the host runs to completion and leaves the further inputs (30_encoding.md R81; log entries 1 and 2). -/
theorem runInput_completes (input : HostInput) (s : State) : ∃ t, runInput input s = .next t ∧ t.inbox = s.inbox := by
  cases input with
  | command w =>
    rw [runInput]
    cases hd : decode w with
    | ok i => exact runWord_ok hd s ▸ exec_completes i s
    | error e => exact ⟨_, runWord_error hd s, rfl⟩
  | reset => exact ⟨_, rfl, rfl⟩

/-- Settles O11: every effect of a command keeps the queue, and so do a rejected word and the reset input. -/
theorem everyInputCompletes : Obligations.EveryInputCompletes := by
  refine ⟨exec_completes, fun s hne => ?_⟩
  obtain ⟨input, rest, hin⟩ := List.exists_cons_of_ne_nil hne
  rw [step_of_inbox hin, hin, List.tail_cons]
  exact runInput_completes input _

/-! ## Operand literals -/

/-- The least value of a decimal literal of each kind of operand (30_encoding.md R90). -/
def OperandKind.least : OperandKind → Int
  | .s8 => -128
  | .u8 | .row3 | .bit => 0

/-- The greatest value of a decimal literal of each kind of operand (30_encoding.md R90). -/
def OperandKind.greatest : OperandKind → Int
  | .s8 => 127
  | .u8 => 255
  | .row3 => 7
  | .bit => 1

/-- The greatest value of a hexadecimal literal of each kind of operand: it gives the byte's bits (30_encoding.md R90). -/
def OperandKind.greatestHex : OperandKind → Nat
  | .s8 | .u8 => 255
  | .row3 => 7
  | .bit => 1

/-- The range check of a decimal literal (30_encoding.md R90). -/
theorem operandByte_dec (k : OperandKind) (v : Int) :
    operandByte k (.dec v) = if k.least ≤ v ∧ v ≤ k.greatest then some (BitVec.ofInt 8 v) else none := by
  cases k <;> rfl

/-- The range check of a hexadecimal literal (30_encoding.md R90). -/
theorem operandByte_hex (k : OperandKind) (v : Nat) :
    operandByte k (.hex v) = if v ≤ k.greatestHex then some (BitVec.ofNat 8 v) else none := by
  cases k <;> rfl

theorem operandByte_dec_isSome (k : OperandKind) (v : Int) :
    (operandByte k (.dec v)).isSome = true ↔ k.least ≤ v ∧ v ≤ k.greatest := by
  rw [operandByte_dec, Option.isSome_ite]

theorem operandByte_hex_isSome (k : OperandKind) (v : Nat) :
    (operandByte k (.hex v)).isSome = true ↔ v ≤ k.greatestHex := by
  rw [operandByte_hex, Option.isSome_ite]

/-- The byte of a decimal literal has its value, signed for an s8 operand (30_encoding.md R90). -/
theorem operandByte_dec_value {k : OperandKind} {v : Int} {b : Byte} (h : operandByte k (.dec v) = some b) :
    (if k = .s8 then b.toInt else b.toNat) = v := by
  rw [operandByte_dec, Option.ite_none_right_eq_some] at h
  obtain ⟨⟨hleast, hgreatest⟩, hb⟩ := h
  cases hb
  rw [BitVec.toInt_ofInt, BitVec.toNat_ofInt]
  cases k <;> simp [OperandKind.least, OperandKind.greatest, Int.bmod] at * <;> omega

theorem operandByte_hex_value {k : OperandKind} {v : Nat} {b : Byte} (h : operandByte k (.hex v) = some b) :
    b.toNat = v := by
  have hbyte : k.greatestHex ≤ 255 := by cases k <;> decide
  rw [operandByte_hex, Option.ite_none_right_eq_some] at h
  obtain ⟨hgreatest, hb⟩ := h
  cases hb
  rw [BitVec.toNat_ofNat]
  omega

/-- Settles O8: the range of each kind, and the value of the byte within it. -/
theorem literalsAreRangeChecked : Obligations.LiteralsAreRangeChecked :=
  ⟨operandByte_dec_isSome .s8, operandByte_hex_isSome .s8, operandByte_dec_isSome .u8, operandByte_hex_isSome .u8,
    operandByte_dec_isSome .row3, operandByte_hex_isSome .row3,
    fun v => (operandByte_dec_isSome .bit v).trans (show 0 ≤ v ∧ v ≤ 1 ↔ v = 0 ∨ v = 1 by omega),
    fun v => (operandByte_hex_isSome .bit v).trans Nat.le_one_iff_eq_zero_or_eq_one,
    fun _ _ h => operandByte_dec_value h, fun _ _ _ hk h => (if_neg hk).symm.trans (operandByte_dec_value h),
    fun _ _ _ h => operandByte_hex_value h⟩

/-! ## What the assembler emits -/

section
variable {ks : List OperandKind} {bytes : List Byte}

/-- Each operand byte fits the kind in its place. -/
theorem fits_getD (h : List.Forall₂ OperandKind.fits ks bytes) {n : Nat} {k : OperandKind} (hk : ks[n]? = some k) :
    k.fits (bytes.getD n 0) := by
  induction h generalizing n with
  | nil => cases hk
  | cons hfits _ ih =>
    cases n with
    | zero =>
      cases hk
      exact hfits
    | succ n => exact ih hk

theorem isBitField_getD (h : List.Forall₂ OperandKind.fits ks bytes) {n : Nat} (hk : ks[n]? = some .bit) :
    isBitField (bytes.getD n 0) = true :=
  decide_eq_true ((fits_getD h hk).1 rfl)

theorem isRowField_getD (h : List.Forall₂ OperandKind.fits ks bytes) {n : Nat} (hk : ks[n]? = some .row3) :
    isRowField (bytes.getD n 0) = true :=
  decide_eq_true ((fits_getD h hk).2 rfl)

end

/-- Fitting operands make a well-formed command: its format constrains only the bit and row operands (30_encoding.md R82). -/
theorem instrOf_wellFormed {m : Mnemonic} {bytes : List Byte} (h : List.Forall₂ OperandKind.fits (operandKinds m) bytes) :
    (instrOf m bytes).wellFormed = true := by
  cases m with
  | frameSet => exact isBitField_getD h (n := 2) rfl
  | frameSetRaw => exact isBitField_getD h (n := 2) rfl
  | frameRowRead => exact isRowField_getD h (n := 0) rfl
  | frameRowWrite => exact isRowField_getD h (n := 0) rfl
  | segBrightness => exact isBitField_getD h (n := 1) rfl
  | segConfig => exact isBitField_getD h (n := 0) rfl
  | _ => rfl

/-- Fitting operands make an expansion of well-formed commands (30_encoding.md R91, R92, R96, R97). -/
theorem expand_wellFormed {p : PseudoMnemonic} {points : Nat} {bytes : List Byte}
    (h : List.Forall₂ OperandKind.fits (pseudoKinds points p) bytes) : ∀ i ∈ expand p bytes, i.wellFormed = true := by
  cases p with
  | canvasClear => simp [expand, canvasClear, Instr.wellFormed]
  | renderAll => simp [expand, renderAll, Instr.wellFormed]
  | brightnessAll => simp [expand, brightnessAll, Instr.wellFormed]
  | layerBlank => simp [expand, layerBlank, Instr.wellFormed]
  | frameStamp => exact List.forall_mem_map.mpr fun _ _ => isBitField_getD h (n := 0) rfl
  | frameLoad =>
    have hrow : ∀ r : Fin 8, isRowField (BitVec.ofNat 8 r.val) = true := by decide
    exact List.forall_mem_map.mpr fun r _ => hrow r

/-- A command line gives well-formed commands, its operands having passed the range check (30_encoding.md R90). -/
theorem assembleCommand_wellFormed {name : String} {texts : List (List Char)} {is : List Instr}
    (h : assembleCommand name texts = .ok is) : ∀ i ∈ is, i.wellFormed = true := by
  unfold assembleCommand at h
  split at h
  next m _ _ =>
    split at h
    next => cases h
    next bytes hbytes =>
      cases h
      exact List.forall_mem_singleton.mpr (instrOf_wellFormed (operandBytes_fits _ _ _ hbytes))
  next p _ _ =>
    split at h
    next => cases h
    next plain _ =>
      split at h
      next => cases h
      next bytes hbytes =>
        cases h
        exact expand_wellFormed (operandBytes_fits _ _ _ hbytes)
  next => cases h

/-- The words of a line are those of its commands (30_encoding.md R89). -/
theorem assembleLine_eq_ok {line : List Char} {ws : List Word} (h : assembleLine line = .ok ws) :
    ∃ is : List Instr, ws = is.map encode ∧ ∀ i ∈ is, i.wellFormed = true := by
  unfold assembleLine at h
  extract_lets text mnemonic rest operands at h
  split at h
  next =>
    cases h
    exact ⟨[], rfl, List.forall_mem_nil _⟩
  next =>
    split at h
    next is hcommand =>
      cases h
      exact ⟨is, rfl, assembleCommand_wellFormed hcommand⟩
    next => cases h

/-- Settles O9: a line's words are those of well-formed commands, and such words decode. -/
theorem assembledWordsDecode : Obligations.AssembledWordsDecode := by
  intro line ws w h hw
  obtain ⟨is, rfl, hwf⟩ := assembleLine_eq_ok h
  obtain ⟨i, hi, rfl⟩ := List.mem_map.mp hw
  exact ⟨i, hwf i hi, rfl, decode_encode_of_wellFormed (hwf i hi)⟩

/-! ## The pseudo-commands on the canvas -/

theorem execAll_cons {i : Instr} {s t : State} (h : exec i s = .next t) (rest : List Instr) :
    execAll (i :: rest) s = execAll rest t := by
  rw [execAll, h]

theorem rowIndex_of_toNat {row : Byte} {r : Fin 8} (h : row.toNat = r.val) : rowIndex row = r :=
  Fin.ext ((Nat.mod_eq_of_lt (h ▸ r.isLt)).trans h)

theorem exec_frameRowWrite {row : Byte} {r : Fin 8} (h : row.toNat = r.val) (data : Byte) (s : State) :
    exec (.frameRowWrite row data) s = .next { s with frame := s.frame.set r data, result := 0 } := by
  rw [exec, execFrameRowWrite, rowIndex_of_toNat h]
  rfl

theorem exec_frameRowRead {row : Byte} {r : Fin 8} (h : row.toNat = r.val) (s : State) :
    exec (.frameRowRead row) s = .next { s with result := s.frame[r] } := by
  rw [exec, execFrameRowRead, rowIndex_of_toNat h]
  rfl

theorem slotIndex_of_toInt {index : Byte} {k : Fin 4} (h : index.toInt = k.val) : slotIndex index = some k := by
  revert index k
  decide

theorem exec_layerSet_inRange {index : Byte} {k : Fin 4} (h : slotIndex index = some k) (raw : Byte) (s : State) :
    exec (.layerSet index raw) s = .next { s with layer := s.layer.set k raw, result := 0 } := by
  rw [exec, execLayerSet, h]
  rfl

/-- A Frame after the rows `order` of it were replaced by those of `rows`, one after another. -/
def loadRows (rows : Vector Byte 8) : List (Fin 8) → Vector Byte 8 → Vector Byte 8
  | [], f => f
  | r :: rest, f => loadRows rows rest (f.set r rows[r])

/-- A row that is loaded has its new value, whatever the order, and any other its old one. -/
theorem loadRows_getElem (rows : Vector Byte 8) (order : List (Fin 8)) (f : Vector Byte 8) (r : Fin 8) :
    (loadRows rows order f)[r] = if r ∈ order then rows[r] else f[r] := by
  induction order generalizing f with
  | nil => rfl
  | cons r' rest ih =>
    rw [loadRows, ih]
    by_cases hrest : r ∈ rest
    · simp [hrest]
    · by_cases h : r = r'
      · simp [h]
      · simp [hrest, h, Fin.val_inj, Ne.symm h]

/-- FRAME_LOAD writes every row (30_encoding.md R97). -/
theorem loadRows_rowOrder (rows f : Vector Byte 8) : loadRows rows rowOrder f = rows := by
  have hall : ∀ r : Fin 8, r ∈ rowOrder := by decide
  refine Vector.ext fun j hj => ?_
  exact (loadRows_getElem rows rowOrder f ⟨j, hj⟩).trans (if_pos (hall ⟨j, hj⟩))

/-- Row writes one after another load their rows (30_encoding.md R97). -/
theorem execAll_rowWrites (rows : Vector Byte 8) (order : List (Fin 8)) (s : State) :
    execAll (order.map fun r => .frameRowWrite (BitVec.ofNat 8 r.val) rows[r]) s =
      .next { s with frame := loadRows rows order s.frame, result := if order = [] then s.result else 0 } := by
  have hrow : ∀ r : Fin 8, (BitVec.ofNat 8 r.val).toNat = r.val := by decide
  induction order generalizing s with
  | nil => rfl
  | cons r rest ih =>
    rw [List.map_cons, execAll_cons (exec_frameRowWrite (hrow r) rows[r] s), ih, ite_self]
    rfl

/-- Settles O33: each expansion run command by command. -/
theorem canvasPseudoCommandsExpand : Obligations.CanvasPseudoCommandsExpand := by
  refine ⟨fun s => rfl, fun index k s h => ?_, fun rows s => ?_, fun row mask r s h => ?_⟩
  · refine ⟨_, execAll_cons (exec_layerSet_inRange (slotIndex_of_toInt h) blankRaw s) [], ?_, fun k' hk => ?_⟩
    · have hblank : blankRaw.toInt = -1 := by decide
      simp [hblank]
    · simp [Fin.val_inj, Ne.symm hk]
  · rw [frameLoad, execAll_rowWrites, loadRows_rowOrder]
    rfl
  · simp only [frameOrRow, exec_frameRowRead h, exec_frameRowWrite h]

/-! ## What a segment target receives -/

/-- The events of one frame of bytes, each with the level of its acknowledge (30_encoding.md R100). -/
def sbFrameEvents (sent : List (Byte × Bool)) : List Event := sbStartEvents ++ sbBytesEvents sent ++ sbStopEvents

/-- Frames sent are frames received, in order. -/
theorem segmentView_see_frames (sents : List (List (Byte × Bool))) (v : SegmentView)
    (hidle : v.lines = { sclOe := false, sdaOe := false }) (hne : ∀ sent ∈ sents, sent ≠ []) :
    ((sents.flatMap sbFrameEvents).foldl SegmentView.see v).frames = v.frames ++ sents.map (·.map Prod.fst) := by
  induction sents generalizing v with
  | nil => simp
  | cons sent rest ih =>
    obtain ⟨hsent, hrest⟩ := List.forall_mem_cons.mp hne
    rw [List.flatMap_cons, List.foldl_append, sbFrameEvents, SegmentView.see_frame sent v hidle hsent, ih _ rfl hrest]
    simp

/-- From idle lines a target receives exactly the frames sent, whatever is acknowledged (30_encoding.md R100). -/
theorem segmentFrames_flatMap {sents : List (List (Byte × Bool))} {frames : List (List Byte)} {l : SbLines}
    (hidle : l = { sclOe := false, sdaOe := false }) (hsents : sents.map (·.map Prod.fst) = frames) (hne : [] ∉ frames) :
    segmentFrames l (sents.flatMap sbFrameEvents) = frames := by
  have hsent : ∀ sent ∈ sents, sent ≠ [] := by
    rintro sent hmem rfl
    exact hne (hsents ▸ List.mem_map_of_mem hmem)
  rw [segmentFrames, segmentView_see_frames sents _ hidle hsent, List.nil_append, hsents]

theorem sb_of_segmentIdle {s : State} (h : s.segmentIdle = true) : s.sb = { sclOe := false, sdaOe := false } := by
  cases hsb : s.sb with
  | mk scl sda => simpa [State.segmentIdle, hsb] using h

/-- A raw value of at most 9 is encoded without a fault (41_layer.md R140). -/
theorem encodeDigit_of_le_nine (t : DigitTable) {raw : Byte} (h : raw.toInt ≤ 9) :
    encodeDigit t raw = .ok (encodedByte t raw) := by
  have hrange : ∀ r : Byte, r.toInt ≤ 9 → ¬ r.toInt < 0 → r.toNat < 10 := by decide
  rw [encodeDigit, encodedByte]
  by_cases hneg : raw.toInt < 0
  · rw [if_pos hneg, if_pos hneg]
    rfl
  · have hlt := hrange raw h hneg
    rw [if_neg hneg, if_neg hneg, dif_pos hlt]
    simp [List.getD_eq_getElem?_getD, hlt]

theorem layer_toList (l : Vector Byte 4) : l.toList = ([0, 1, 2, 3] : List (Fin 4)).map fun k => l[k] := by
  refine List.ext_getElem (by simp) fun j hj _ => ?_
  rw [Vector.length_toList] at hj
  interval_cases j <;> rfl

/-- With no slot above 9 the four slots are encoded (43_segment_bus.md R199). -/
theorem encodeSlots_of_readable {s : State} (h : DigitsReadable s) :
    encodeSlots s.cfg.digits s.layer.toList = .ok (s.layer.toList.map (encodedByte s.cfg.digits)) := by
  rw [encodeSlots_ok, List.map_map, layer_toList]
  exact List.map_congr_left fun raw hraw => by
    obtain ⟨k, -, rfl⟩ := List.mem_map.mp hraw
    exact encodeDigit_of_le_nine _ (h k)

/-- The digit bytes of a render: the encoded slots with the separator (43_segment_bus.md R200). -/
theorem map_withSeparator_eq_digitBytes (s : State) :
    (s.layer.toList.map (encodedByte s.cfg.digits)).map (withSeparator (separator s.segctl)) = digitBytes s := by
  have hsep : ∀ (sep : Bool) (b : Byte), withSeparator sep b = b ||| (if sep then 0x80 else 0x00) := by decide
  rw [layer_toList, List.map_map, List.map_map]
  exact List.map_congr_left fun k _ => hsep _ _

theorem map_fst_zip_nextDraws (bytes : List Byte) (s : State) :
    (bytes.zip (nextDraws bytes.length s)).map Prod.fst = bytes :=
  List.map_fst_zip (nextDraws_length bytes.length s).ge

/-- SEG_RENDER is the frame of the data command and the frame of the address and the digits (43_segment_bus.md R199). -/
theorem segRender_received {s : State} (hidle : s.segmentIdle = true) (h : DigitsReadable s) :
    ∃ t es, exec .segRender s = .next t ∧ t.trace = s.trace ++ es ∧
      segmentFrames s.sb es = [[0x40], 0xC0 :: digitBytes s] ∧ t.segmentIdle = true := by
  refine ⟨_, _, exec_segRender_ok (encodeSlots_of_readable h), rfl, ?_, rfl⟩
  have hlen : (s.layer.toList.map (encodedByte s.cfg.digits)).length + 1 = (0xC0 :: digitBytes s).length := by
    simp [digitBytes]
  rw [map_withSeparator_eq_digitBytes, hlen]
  have hdigits := map_fst_zip_nextDraws (0xC0 :: digitBytes s) (takeDraw s)
  have hframes := segmentFrames_flatMap (sb_of_segmentIdle hidle)
    (sents := [[(sbCmdData, nextDraw s)], _]) (congrArg (fun sent => [[0x40], sent]) hdigits) (by simp)
  rwa [List.flatMap_cons, List.flatMap_singleton] at hframes

theorem exec_segBrightness_inRange {p : Byte} (en : Byte) (s : State) (h : p.toNat ≤ 100) :
    exec (.segBrightness p en) s = finish 0x00 (sbFrame [displayControl s.cfg p (bitOf en)] s) :=
  if_neg (Nat.not_lt.mpr h)

/-- SEG_BRIGHTNESS is the frame of its control byte (43_segment_bus.md R202). -/
theorem segBrightness_received {s : State} (hidle : s.segmentIdle = true) {p : Byte} (hp : p.toNat ≤ 100) (en : Byte) :
    ∃ t es, exec (.segBrightness p en) s = .next t ∧ t.trace = s.trace ++ es ∧
      segmentFrames s.sb es = [[displayControl s.cfg p (en.getLsbD 0)]] ∧ t.segmentIdle = true := by
  rw [exec_segBrightness_inRange en s hp, sbFrame_eq]
  refine ⟨_, _, rfl, rfl, ?_, rfl⟩
  have hbyte := map_fst_zip_nextDraws [displayControl s.cfg p (bitOf en)] s
  have hframes := segmentFrames_flatMap (sb_of_segmentIdle hidle) (sents := [_]) (congrArg (fun sent => [sent]) hbyte)
    (by simp)
  rwa [List.flatMap_singleton] at hframes

/-- Settles O56: each command is one or two whole frames, and a target on idle lines receives them. -/
theorem segmentTargetReceivesTheFrames : Obligations.SegmentTargetReceivesTheFrames := fun _ hidle =>
  ⟨segRender_received hidle, fun _ en hp => segBrightness_received hidle hp en⟩

end Sys2Proof.Machine
end

section
/-! The statements of 40_frame.md: what each Frame command does in range and out of range (R110 to R116), and the laws the spec
derives from them (R117 to R119). -/

namespace Sys2Proof.Machine

/-! ## Coordinates -/

/-- A coordinate is the s8 value of its operand (40_frame.md R110). -/
theorem coord_eq_some_iff_toInt (x : Byte) (c : Fin 8) : coord x = some c ↔ x.toInt = c.val := by
  revert x c
  decide

theorem coord_of_toInt {x : Byte} {c : Fin 8} (h : x.toInt = c.val) : coord x = some c :=
  (coord_eq_some_iff_toInt x c).mpr h

theorem exists_coord {x : Byte} (h0 : 0 ≤ x.toInt) (h7 : x.toInt ≤ 7) : ∃ c, coord x = some c := by
  refine Option.ne_none_iff_exists'.mp fun hnone => ?_
  have hout := (coord_eq_none x).mp hnone
  omega

theorem coord_none_of_not_bothInRange {row col : Byte} (h : ¬ BothInRange row col) :
    coord row = none ∨ coord col = none := by
  rw [coord_eq_none, coord_eq_none]
  omega

/-- `A[2:0]` is the row of a row access, whatever the other bits of the field (30_encoding.md R83). -/
theorem rowIndex_of_extractLsb' {row : Byte} {r : Fin 8} (h : (row.extractLsb' 0 3).toNat = r.val) : rowIndex row = r := by
  rw [BitVec.extractLsb'_toNat, Nat.shiftRight_zero] at h
  exact Fin.ext h

/-! ## One pixel -/

theorem columnBit_inj {c c' : Fin 8} : columnBit c' = columnBit c ↔ c' = c := by
  simp only [columnBit, Fin.ext_iff]
  omega

theorem frameRow_writeRow (r r' : Fin 8) (data : Byte) (s : State) :
    frameRow (writeRow r data s) r' = if r' = r then data else frameRow s r' := by
  by_cases h : r' = r
  · simp [frameRow, h]
  · simp [frameRow, h, Fin.val_inj, Ne.symm h]

/-- A written pixel reads as its new value, every other pixel as before (20_memory.md R61). -/
theorem pixel_writePixel (r c r' c' : Fin 8) (v : Bool) (s : State) :
    pixel (writePixel r c v s) r' c' = if r' = r ∧ c' = c then v else pixel s r' c' := by
  rw [pixel, writePixel, frameRow_writeRow]
  by_cases hr : r' = r
  · subst hr
    have hlt : columnBit c' < 8 := Nat.lt_of_le_of_lt (Nat.sub_le 7 c'.val) (by decide)
    simp only [if_true, true_and, setBit_getLsbD, columnBit_inj, hlt, and_true, pixel]
  · simp only [hr, if_false, false_and, pixel]

theorem pixelWritten_writePixel (r c : Fin 8) (v : Bool) (s : State) :
    PixelWritten r c v s { writePixel r c v s with result := 0 } :=
  ⟨(pixel_writePixel r c r c v s).trans (if_pos ⟨rfl, rfl⟩),
    fun r' c' hne => (pixel_writePixel r c r' c' v s).trans (if_neg hne), rfl⟩

/-! ## The commands, case by case -/

/-- OOR_SEEN is bit 2 of `status` (10_state.md R31). -/
theorem setOor_eq (s : State) : setOor s = { s with status := s.status ||| 0x04 } := rfl

section
variable {row col : Byte} {r c : Fin 8}

theorem exec_frameSet_inRange (hr : coord row = some r) (hc : coord col = some c) (v : Byte) (s : State) :
    exec (.frameSet row col v) s = .next { writePixel r c (bitOf v) s with result := 0 } := by
  simp only [exec, execFrameSet, hr, hc, finish_eq]

theorem exec_frameSet_outOfRange (h : coord row = none ∨ coord col = none) (v : Byte) (s : State) :
    exec (.frameSet row col v) s = .next { setOor s with result := 0 } := by
  obtain h | h := h
  · simp only [exec, execFrameSet, h, finish_eq]
  · cases hr : coord row <;> simp only [exec, execFrameSet, h, hr, finish_eq]

theorem exec_frameSetRaw_rowOutOfRange (h : coord row = none) (col v : Byte) (s : State) :
    exec (.frameSetRaw row col v) s = .next (raiseFault .rawRowRange s) := by
  simp only [exec, execFrameSetRaw, h, raise_eq]

/-- With the row in range, a raw write is a checked write (40_frame.md R114). -/
theorem exec_frameSetRaw_eq_frameSet (h : coord row = some r) (col v : Byte) (s : State) :
    exec (.frameSetRaw row col v) s = exec (.frameSet row col v) s := by
  cases hc : coord col <;> simp only [exec, execFrameSetRaw, execFrameSet, h, hc]

end

/-- Settles O25: the two writes of FRAME_CLEAR are the definition's own. -/
theorem frameClearZeroesEveryRow : Obligations.FrameClearZeroesEveryRow := fun _ => rfl

/-- Settles O26: the s8 values decide which of FRAME_GET's two cases it is. -/
theorem frameGetReadsThePixel : Obligations.FrameGetReadsThePixel :=
  ⟨fun _ _ _ _ _ hrow hcol => exec_frameGet_inRange (coord_of_toInt hrow) (coord_of_toInt hcol),
    fun _ _ _ hout => exec_frameGet_outOfRange (coord_none_of_not_bothInRange hout)⟩

/-- Settles O27: in range FRAME_SET is the write of one pixel, out of range it records OOR_SEEN. -/
theorem frameSetWritesOnePixel : Obligations.FrameSetWritesOnePixel :=
  ⟨fun _ _ v r c s hrow hcol =>
      ⟨_, exec_frameSet_inRange (coord_of_toInt hrow) (coord_of_toInt hcol) v s, pixelWritten_writePixel r c (bitOf v) s⟩,
    fun _ _ v s hout => exec_frameSet_outOfRange (coord_none_of_not_bothInRange hout) v s⟩

/-- Settles O28: a row out of range faults; with the row in range FRAME_SET_RAW is FRAME_SET, whose two cases are above. -/
theorem frameSetRawGuardsTheRow : Obligations.FrameSetRawGuardsTheRow := by
  have hset : ∀ (row col v : Byte) (s : State), 0 ≤ row.toInt → row.toInt ≤ 7 →
      exec (.frameSetRaw row col v) s = exec (.frameSet row col v) s := fun row col v s h0 h7 => by
    obtain ⟨r, hr⟩ := exists_coord h0 h7
    exact exec_frameSetRaw_eq_frameSet hr col v s
  refine ⟨fun row col v s hrow => ?_, fun row col v r c s hrow hcol => ?_, fun row col v s h0 h7 hcol => ?_, hset⟩
  · exact exec_frameSetRaw_rowOutOfRange ((coord_eq_none row).mpr hrow) col v s
  · rw [exec_frameSetRaw_eq_frameSet (coord_of_toInt hrow)]
    exact frameSetWritesOnePixel.1 row col v r c s hrow hcol
  · rw [hset row col v s h0 h7]
    exact exec_frameSet_outOfRange (.inr ((coord_eq_none col).mpr hcol)) v s

/-- Settles O29: a row access uses the row register that `A[2:0]` names. -/
theorem rowAccessesMoveWholeRows : Obligations.RowAccessesMoveWholeRows := by
  intro row data r s hrow
  have hindex := rowIndex_of_extractLsb' hrow
  have hread : exec (.frameRowRead row) s = .next { s with result := s.frame[r] } := by
    rw [exec, execFrameRowRead, hindex]
    rfl
  have hwrite : exec (.frameRowWrite row data) s = .next { writeRow r data s with result := 0 } := by
    rw [exec, execFrameRowWrite, hindex]
    rfl
  exact ⟨hread, _, hwrite, (frameRow_writeRow r r data s).trans (if_pos rfl),
    fun r' hne => (frameRow_writeRow r r' data s).trans (if_neg hne), rfl⟩

/-! ## The derived laws -/

/-- A bit operand is the bit it stands for, extended to a byte (30_encoding.md R83). -/
theorem zextBit_bitOf {v : Byte} (h : v.toNat < 2) : zextBit (bitOf v) = v := by
  revert v
  decide

/-- Settles O30: the pixel FRAME_GET reads is the one FRAME_SET wrote. -/
theorem setThenGetReturnsTheBit : Obligations.SetThenGetReturnsTheBit := by
  rintro row col v s ⟨hrow0, hrow7, hcol0, hcol7⟩ hv
  obtain ⟨r, hr⟩ := exists_coord hrow0 hrow7
  obtain ⟨c, hc⟩ := exists_coord hcol0 hcol7
  have hrun : execAll [.frameSet row col v, .frameGet row col] s =
      .next { writePixel r c (bitOf v) s with result := zextBit (pixel (writePixel r c (bitOf v) s) r c) } := by
    rw [execAll_cons (exec_frameSet_inRange hr hc v s), execAll_cons (exec_frameGet_inRange hr hc)]
    rfl
  refine ⟨_, hrun, ?_, rfl, fun r' c' hne => ?_⟩
  · rw [pixel_writePixel, if_pos ⟨rfl, rfl⟩, zextBit_bitOf hv]
  · refine (pixel_writePixel r c r' c' (bitOf v) s).trans (if_neg ?_)
    rintro ⟨rfl, rfl⟩
    exact hne ⟨(coord_eq_some_iff_toInt row r').mp hr, (coord_eq_some_iff_toInt col c').mp hc⟩

/-- Out of range a raw write keeps the Frame, and a row out of range sets FAULT (40_frame.md R114). -/
theorem exec_frameSetRaw_outOfRange {row col : Byte} (h : coord row = none ∨ coord col = none) (v : Byte) (s : State) :
    ∃ t, exec (.frameSetRaw row col v) s = .next t ∧ t.frame = s.frame ∧
      (coord row = none → faultSeen t.status = true) := by
  cases hr : coord row with
  | none =>
    exact ⟨_, exec_frameSetRaw_rowOutOfRange hr col v s, rfl, fun _ => (recordFault_fields .rawRowRange s.status).1⟩
  | some r =>
    rw [exec_frameSetRaw_eq_frameSet hr]
    exact ⟨_, exec_frameSet_outOfRange h v s, rfl, nofun⟩

/-- Settles O31: out of range each of the three commands writes `status` and `result` alone. -/
theorem outOfRangeNeverChangesThePixels : Obligations.OutOfRangeNeverChangesThePixels := by
  intro row col v s hout
  have hcoord := coord_none_of_not_bothInRange hout
  obtain ⟨t, ht, hframe, hfault⟩ := exec_frameSetRaw_outOfRange hcoord v s
  exact ⟨_, _, t, exec_frameGet_outOfRange hcoord, exec_frameSet_outOfRange hcoord v s, ht, rfl, rfl, hframe, rfl,
    fun hrow => hfault ((coord_eq_none row).mpr hrow)⟩

/-- The point that an operand pair names is the pixel (r, c). -/
def namesPixel (r c : Fin 8) (p : Byte × Byte) : Bool := p.1.toInt == (r.val : Int) && p.2.toInt == (c.val : Int)

theorem namesPixel_iff (r c : Fin 8) (p : Byte × Byte) :
    namesPixel r c p = true ↔ coord p.1 = some r ∧ coord p.2 = some c := by
  simp [namesPixel, coord_eq_some_iff_toInt]

/-- FRAME_SET, in range or not, gives v to the pixel its operands name, if any, and keeps every other (40_frame.md R113). -/
theorem exec_frameSet_pixels (p : Byte × Byte) (v : Byte) (s : State) :
    ∃ t, exec (.frameSet p.1 p.2 v) s = .next t ∧
      t = { s with frame := t.frame, status := t.status, result := t.result } ∧
      ∀ r c, pixel t r c = if namesPixel r c p then bitOf v else pixel s r c := by
  by_cases hout : coord p.1 = none ∨ coord p.2 = none
  · refine ⟨_, exec_frameSet_outOfRange hout v s, rfl, fun r c => ?_⟩
    have hno : ¬ namesPixel r c p = true := by
      rw [namesPixel_iff]
      rintro ⟨hr, hc⟩
      simp [hr, hc] at hout
    rw [if_neg hno]
    rfl
  · obtain ⟨hrow, hcol⟩ := not_or.mp hout
    obtain ⟨r', hr⟩ := Option.ne_none_iff_exists'.mp hrow
    obtain ⟨c', hc⟩ := Option.ne_none_iff_exists'.mp hcol
    refine ⟨_, exec_frameSet_inRange hr hc v s, rfl, fun r c => (pixel_writePixel r' c' r c (bitOf v) s).trans ?_⟩
    simp only [namesPixel_iff, hr, hc, Option.some.injEq, @eq_comm _ r', @eq_comm _ c']

/-- A stamp gives v to the pixels its points name and keeps every other: a later point only gives v again (40_frame.md R119). -/
theorem execAll_frameStamp (v : Byte) (points : List (Byte × Byte)) (s : State) :
    ∃ t, execAll (frameStamp v points) s = .next t ∧
      t = { s with frame := t.frame, status := t.status, result := t.result } ∧
      ∀ r c, pixel t r c = if points.any (namesPixel r c) then bitOf v else pixel s r c := by
  induction points generalizing s with
  | nil => exact ⟨s, rfl, rfl, fun r c => rfl⟩
  | cons p rest ih =>
    obtain ⟨t, ht, hkeep, hpixel⟩ := exec_frameSet_pixels p v s
    obtain ⟨u, hu, hkeep', hpixel'⟩ := ih t
    refine ⟨u, (execAll_cons ht _).trans hu, hkeep'.trans (by rw [hkeep]), fun r c => ?_⟩
    rw [hpixel' r c, hpixel r c, List.any_cons, Bool.or_comm]
    simp only [Bool.or_eq_true, ite_or]

/-- Settles O32: the law of a stamp, pixel by pixel. -/
theorem stampingSetsItsPointsOnly : Obligations.StampingSetsItsPointsOnly := execAll_frameStamp

end Sys2Proof.Machine
end

section
/-! The statements of 41_layer.md: the table of digit codes (R141), what the Layer commands do (R140, R142 to R145), and when a
slot is encoded (R146). -/

namespace Sys2Proof.Machine

/-! ## The digit codes -/

/-- A table parameter is seven bits wide, so bit 7 of its byte is 0 (41_layer.md R141). -/
theorem getLsbD_seven_setWidth (entry : BitVec 7) : (entry.setWidth 8).getLsbD 7 = false := by
  rw [BitVec.getLsbD_setWidth, BitVec.getLsbD_of_ge entry 7 le_rfl, Bool.and_false]

theorem encodedByte_of_neg (t : DigitTable) {raw : Byte} (h : raw.toInt < 0) : encodedByte t raw = 0 := if_pos h

theorem encodedByte_of_digit (t : DigitTable) {raw : Byte} {d : Fin 10} (h : raw.toInt = d.val) :
    encodedByte t raw = (digitTable t)[d] := by
  have hvalue : ∀ (r : Byte) (d : Fin 10), r.toInt = d.val → r.toNat = d.val := by decide
  rw [encodedByte, if_neg (by omega), hvalue raw d h]
  simp [List.getD_eq_getElem?_getD]

/-- Settles O36: entries 0 and 8 are the source's, every other entry is a parameter of seven bits. -/
theorem digitTableHasTheStatedEntries : Obligations.DigitTableHasTheStatedEntries := by
  have hdigitZero : digitZero.getLsbD 7 = false := by decide
  have hdigitEight : digitEight.getLsbD 7 = false := by decide
  have hparam := getLsbD_seven_setWidth
  refine ⟨fun t => ⟨rfl, rfl, fun d => ?_⟩, by decide⟩
  fin_cases d
  exacts [hdigitZero, hparam _, hparam _, hparam _, hparam _, hparam _, hparam _, hparam _, hdigitEight, hparam _]

/-! ## The commands, case by case -/

theorem slot_writeSlot (k k' : Fin 4) (raw : Byte) (s : State) :
    slot (writeSlot k raw s) k' = if k' = k then raw else slot s k' := by
  by_cases h : k' = k
  · simp [slot, h]
  · simp [slot, h, Fin.val_inj, Ne.symm h]

theorem exec_layerSet_outOfRange {index : Byte} (h : slotIndex index = none) (raw : Byte) (s : State) :
    exec (.layerSet index raw) s = .next { setOor s with result := 0 } := by
  simp only [exec, execLayerSet, h, finish_eq]

section
variable {index raw : Byte} {k : Fin 4} {s : State}

/-- A read of a slot of at most 9 returns its encoded byte (41_layer.md R140, R144). -/
theorem exec_layerGet_of_le_nine (hk : slotIndex index = some k) (hslot : s.layer[k] = raw) (h : raw.toInt ≤ 9) :
    exec (.layerGet index) s = .next { s with result := encodedByte s.cfg.digits raw } := by
  subst hslot
  exact exec_layerGet_ok hk (encodeDigit_of_le_nine _ h)

/-- A read of a slot above 9 faults (41_layer.md R140, R144). -/
theorem exec_layerGet_of_nine_lt (hk : slotIndex index = some k) (hslot : s.layer[k] = raw) (h : 9 < raw.toInt) :
    exec (.layerGet index) s = .next (raiseFault .digitRange s) := by
  subst hslot
  exact exec_layerGet_error hk ((encodeDigit_error _ _ _).mpr ⟨rfl, h⟩)

end

/-- Settles O34: LAYER_CLEAR fills the Layer, LAYER_SET in range is the write of one slot, out of range it records OOR_SEEN. -/
theorem layerWritesStoreRawValues : Obligations.LayerWritesStoreRawValues := by
  have hblank : blankRaw.toInt = -1 := by decide
  refine ⟨fun s => ⟨_, rfl, fun k => ?_, rfl⟩, fun index raw k s hindex => ?_, fun index raw s hout => ?_⟩
  · simp [hblank]
  · exact ⟨_, exec_layerSet_inRange (slotIndex_of_toInt hindex) raw s, (slot_writeSlot k k raw s).trans (if_pos rfl),
      fun k' hne => (slot_writeSlot k k' raw s).trans (if_neg hne), rfl⟩
  · exact exec_layerSet_outOfRange ((slotIndex_eq_none index).mpr hout) raw s

/-- Settles O35: at most 9 the read returns the encoded byte, blank or of the table; above 9 and out of range it returns 0. -/
theorem layerGetEncodesTheSlot : Obligations.LayerGetEncodesTheSlot := by
  refine ⟨fun index k s hindex hneg => ?_, fun index k d s hindex hd => ?_, fun index k s hindex hraw => ?_,
    fun index s hout => ?_⟩
  · rw [exec_layerGet_of_le_nine (slotIndex_of_toInt hindex) rfl (by omega), encodedByte_of_neg _ hneg]
  · rw [exec_layerGet_of_le_nine (slotIndex_of_toInt hindex) rfl (by omega), encodedByte_of_digit _ hd]
  · exact exec_layerGet_of_nine_lt (slotIndex_of_toInt hindex) rfl hraw
  · exact exec_layerGet_outOfRange ((slotIndex_eq_none index).mpr hout)

/-! ## The time of encoding -/

/-- Two writes of a slot leave the second value, and nothing of the first (41_layer.md R145). -/
theorem execAll_layerSet_layerSet {index : Byte} {k : Fin 4} (hk : slotIndex index = some k) (old raw : Byte)
    (rest : List Instr) (s : State) :
    execAll (.layerSet index old :: .layerSet index raw :: rest) s =
      execAll rest { writeSlot k raw s with result := 0 } := by
  rw [execAll_cons (exec_layerSet_inRange hk old s), execAll_cons (exec_layerSet_inRange hk raw _)]
  simp [writeSlot]

/-- Settles O37: the read sees the second value alone, and that value decides whether it faults. -/
theorem encodingHappensAtReadTime : Obligations.EncodingHappensAtReadTime := by
  intro index old raw k s hindex
  have hk := slotIndex_of_toInt hindex
  rw [execAll_layerSet_layerSet hk]
  have hslot : ({ writeSlot k raw s with result := 0 } : State).layer[k] = raw :=
    (slot_writeSlot k k raw s).trans (if_pos rfl)
  by_cases hraw : raw.toInt ≤ 9
  · exact ⟨_, execAll_cons (exec_layerGet_of_le_nine hk hslot hraw) [], hslot, fun _ => ⟨rfl, rfl⟩,
      fun h => absurd hraw (not_le.mpr h)⟩
  · exact ⟨_, execAll_cons (exec_layerGet_of_nine_lt hk hslot (not_le.mp hraw)) [], hslot, fun h => absurd h hraw,
      fun _ => ⟨rfl, (recordFault_fields .digitRange s.status).1⟩⟩

end Sys2Proof.Machine
end

section
/-! The statements of 42_matrix_bus.md: the event sequence of a transaction (R160), when DIN moves (R161), the four matrix-bus
commands (R162 to R164, R166) and the intensity scale (R165). -/

namespace Sys2Proof.Machine

/-! ## The ends of the commands -/

/-- A command that is one transaction: its 50 events, and the lines at rest (42_matrix_bus.md R160). -/
theorem finish_mbTransaction (addr data : Byte) (s : State) :
    finish 0x00 (mbTransaction addr data s) = .next { s with
      mb := { din := data.getLsbD 0, clk := false, load := true }
      trace := s.trace ++ mbWordEvents (addr, data)
      result := 0 } := by
  rw [mbTransaction_eq]
  rfl

/-- A command that is several transactions leaves DIN at the last data bit of the last one (42_matrix_bus.md R160). -/
theorem finish_mbTransactions {words : List (Byte × Byte)} {addr data : Byte} (hlast : words.getLast? = some (addr, data))
    (s : State) :
    finish 0x00 (mbTransactions words s) = .next { s with
      mb := { din := data.getLsbD 0, clk := false, load := true }
      trace := s.trace ++ words.flatMap mbWordEvents
      result := 0 } := by
  obtain ⟨init, rfl⟩ := List.getLast?_eq_some_iff.mp hlast
  rw [mbTransactions_eq, if_neg (by simp), List.getLastD_concat]
  rfl

/-! ## MB_XFER, MB_INIT and MB_RENDER -/

/-- The bits of a transaction, each with its clock pulse, in the order of 42_matrix_bus.md R160. -/
theorem mbWordEvents_eq (addr data : Byte) :
    mbWordEvents (addr, data) = [.mbLoad false] ++
      (mbBitOrder.flatMap fun i => [.mbDin ((addr ++ data).getLsbD i), .mbClk true, .mbClk false]) ++ [.mbLoad true] := by
  rw [mbWordEvents, mbWordBits, List.flatMap_map]
  rfl

/-- Settles O39: MB_XFER is one transaction, and its events are those of the sixteen bits of its word. -/
theorem mbXferSendsOneTransaction : Obligations.MbXferSendsOneTransaction := fun addr data s =>
  mbWordEvents_eq addr data ▸ finish_mbTransaction addr data s

/-- Settles O40: the addresses of the rows are 0x01 to 0x08, and the last transaction sends the data 0. -/
theorem mbInitSendsTheStartupSequence : Obligations.MbInitSendsTheStartupSequence := by
  intro s
  have hlast : (mbInitWords s.cfg).getLast? = some (mbRowAddress 7, 0x00) := rfl
  have hdin : (0x00 : Byte).getLsbD 0 = false := by decide
  have h := finish_mbTransactions hlast s
  rw [hdin] at h
  exact h

/-- The row reversal is the reversal of a bit vector (00_scope.md R13). -/
theorem rev8_eq_reverse (b : Byte) : rev8 b = b.reverse := by
  refine BitVec.eq_of_getLsbD_eq fun i hi => ?_
  rw [rev8_getLsbD b i hi, BitVec.getLsbD_reverse, BitVec.getMsbD, decide_eq_true hi, Bool.true_and]

/-- Settles O41: every row is sent reversed, so the bit of DIN that stays is bit 7 of row 7. -/
theorem mbRenderSendsTheRowsReversed : Obligations.MbRenderSendsTheRowsReversed := by
  intro s
  have hdin : s.frame[7].reverse.getLsbD 0 = s.frame[7].getLsbD 7 := by
    rw [← rev8_eq_reverse, rev8_getLsbD _ 0 (by decide)]
  have hwords : mbRenderWords s.frame = rowOrder.map fun r => (mbRowAddress r, s.frame[r].reverse) :=
    List.map_congr_left fun r _ => by rw [rev8_eq_reverse]
  have hlast : (rowOrder.map fun r => (mbRowAddress r, s.frame[r].reverse)).getLast? =
      some (mbRowAddress 7, s.frame[7].reverse) := rfl
  rw [← hdin, exec, execMbRender, hwords]
  exact finish_mbTransactions hlast s

/-! ## The intensity -/

/-- The intensity scale with the bounds put in (42_matrix_bus.md R165). -/
theorem mbIntensity_eq (p : Byte) : mbIntensity p = BitVec.ofNat 8 (1 + 14 * p.toNat / 100) := by
  rw [mbIntensity, Nat.mul_comm]
  rfl

/-- Up to 100 percent the intensity is small enough for its byte (42_matrix_bus.md R165). -/
theorem mbIntensity_toNat {p : Byte} (h : p.toNat ≤ 100) : (mbIntensity p).toNat = 1 + 14 * p.toNat / 100 := by
  rw [mbIntensity_eq, BitVec.toNat_ofNat, Nat.mod_eq_of_lt (by omega)]

/-- Settles O43: the formula, which is monotonic and has its bounds at 0 and at 100. -/
theorem matrixIntensityScale : Obligations.MatrixIntensityScale := by
  refine ⟨fun p hp => ?_, fun p q hpq hq => ?_, by decide, by decide, by decide⟩
  · rw [mbIntensity_toNat hp]
    omega
  · rw [mbIntensity_toNat (hpq.trans hq), mbIntensity_toNat hq]
    omega

theorem exec_mbBrightness_outOfRange {p : Byte} (s : State) (h : 100 < p.toNat) :
    exec (.mbBrightness p) s = .next (raiseFault .percentRange s) :=
  if_pos h

/-- Settles O42: up to 100 percent one transaction with the intensity of the scale, above it a fault before any event. -/
theorem mbBrightnessSendsTheIntensity : Obligations.MbBrightnessSendsTheIntensity := by
  refine ⟨fun p s hp => ?_, fun p s hp => exec_mbBrightness_outOfRange s hp⟩
  rw [exec_mbBrightness_inRange s hp, mbIntensity_eq]
  exact finish_mbTransaction _ _ s

/-! ## DIN and CLK in every command -/

theorem mbTransactions_trace {words : List (Byte × Byte)} {s t : State}
    (h : finish 0x00 (mbTransactions words s) = .next t) : t.trace = s.trace ++ words.flatMap mbWordEvents := by
  rw [mbTransactions_eq] at h
  cases h
  rfl

/-- A matrix-bus command is whole transactions; MB_BRIGHTNESS above 100 percent is none (42_matrix_bus.md R162 to R166). -/
theorem UsesMatrixBus.trace_eq {i : Instr} {s t : State} (hi : UsesMatrixBus i) (h : exec i s = .next t) :
    ∃ words : List (Byte × Byte), t.trace = s.trace ++ words.flatMap mbWordEvents := by
  obtain rfl | rfl | ⟨p, rfl⟩ | ⟨addr, data, rfl⟩ := hi
  · exact ⟨mbInitWords s.cfg, mbTransactions_trace h⟩
  · exact ⟨mbRenderWords s.frame, mbTransactions_trace h⟩
  · by_cases hp : p.toNat ≤ 100
    · rw [exec_mbBrightness_inRange s hp] at h
      exact ⟨[(s.cfg.mbRegIntensity, mbIntensity p)], mbTransactions_trace h⟩
    · rw [exec_mbBrightness_outOfRange s (not_le.mp hp)] at h
      cases h
      exact ⟨[], (List.append_nil _).symm⟩
  · exact ⟨[(addr, data)], mbTransactions_trace h⟩

/-- The events of a command are whole matrix-bus transactions, or none of them is of the matrix bus (20_memory.md R74). -/
theorem exec_events {i : Instr} {s t : State} (h : exec i s = .next t) :
    ∃ es, t.trace = s.trace ++ es ∧ ((∃ words : List (Byte × Byte), es = words.flatMap mbWordEvents) ∨ OnSegmentBus es) := by
  cases busUse_of_exec h with
  | silent htrace | config _ htrace =>
    exact ⟨[], htrace.trans (List.append_nil _).symm, .inr (List.forall_mem_nil _)⟩
  | matrix hi =>
    obtain ⟨words, htrace⟩ := hi.trace_eq h
    exact ⟨_, htrace, .inl ⟨words, rfl⟩⟩
  | segment _ hes htrace => exact ⟨_, htrace, .inr hes⟩

/-- DIN moves only while CLK is low in transactions one after another (42_matrix_bus.md R161). -/
theorem dinStable_words (words : List (Byte × Byte)) (l : MbLines) (h : l.clk = false) :
    dinStable l (words.flatMap mbWordEvents) = true := by
  induction words generalizing l with
  | nil => rfl
  | cons w rest ih =>
    obtain ⟨d, hd⟩ := dinStable_word w l (rest.flatMap mbWordEvents) h
    rw [List.flatMap_cons, hd]
    exact ih _ rfl

/-- Events of the segment bus do not move DIN. -/
theorem dinStable_of_onSegmentBus {es : List Event} (h : OnSegmentBus es) (l : MbLines) : dinStable l es = true := by
  induction es with
  | nil => rfl
  | cons e rest ih =>
    obtain ⟨he, hrest⟩ := List.forall_mem_cons.mp h
    cases e with
    | mbDin | mbClk | mbLoad => cases he
    | sbDrive | sbRelease | sbSense | sbDelay => exact ih hrest

/-- Every command that finds CLK low leaves it low (42_matrix_bus.md R160). -/
theorem Effect.clk_low {s t : State} {i : Instr} (h : Effect s i t) (hclk : s.mb.clk = false) : t.mb.clk = false := by
  cases h with
  | matrixWords => rfl
  | _ => exact hclk

/-- Settles O44: DIN moves only while CLK is low in a transaction, and events of the other bus do not move it. -/
theorem dinMovesOnlyWhileTheClockIsLow : Obligations.DinMovesOnlyWhileTheClockIsLow := by
  intro i s t es hclk hexec htrace
  refine ⟨?_, (effect_of_exec hexec).clk_low hclk⟩
  obtain ⟨es', htrace', hevents⟩ := exec_events hexec
  obtain rfl : es = es' := List.append_cancel_left (htrace.symm.trans htrace')
  obtain ⟨words, rfl⟩ | hes := hevents
  · exact dinStable_words words s.mb hclk
  · exact dinStable_of_onSegmentBus hes s.mb

end Sys2Proof.Machine
end

section
/-! The statements of 43_segment_bus.md: SEG_START and SEG_STOP (R191, R192, R196, R197), the byte of SEG_WRITE (R193 to R195,
R198, R204), the frames of SEG_RENDER (R199, R200) and of SEG_BRIGHTNESS (R201, R202), and SEG_CONFIG (R203). -/

namespace Sys2Proof.Machine

/-! ## Start, stop and the separator -/

/-- Settles O47: SEG_START and SEG_STOP are the start and the stop condition of the bus. -/
theorem segStartAndStopEmitTheirConditions : Obligations.SegStartAndStopEmitTheirConditions := by
  intro s
  rw [exec, execSegStart, sbStart_eq, exec, execSegStop, sbStop_eq]
  exact ⟨rfl, rfl⟩

/-- SEP is bit 0 of `segctl` (10_state.md R35). -/
theorem setSeparator_eq (ctl : Byte) (sep : Bool) : setSeparator ctl sep = if sep then ctl ||| 0x01 else ctl &&& 0xFE := rfl

/-- Settles O54: SEG_CONFIG writes bit 0 of `segctl` and nothing else but `result`. -/
theorem segConfigSetsTheSeparator : Obligations.SegConfigSetsTheSeparator := by
  intro sep s
  rw [exec, execSegConfig, setSeparator_eq]
  rfl

/-! ## What acknowledges leave in `status` -/

/-- A low level sets ACK_LAST, a high one clears it and sets NACK_SEEN (43_segment_bus.md R195). -/
theorem recordAck_eq (lvl : Bool) (st : Byte) :
    recordAck lvl st = if lvl then (st &&& 0xFE) ||| 0x02 else st ||| 0x01 := by
  cases lvl <;> rfl

/-- Bits 2 and up of `status` are no part of an acknowledge (43_segment_bus.md R195). -/
theorem recordAck_getLsbD_of_two_le (lvl : Bool) (st : Byte) {j : Nat} (hj : 2 ≤ j) :
    (recordAck lvl st).getLsbD j = st.getLsbD j := by
  have hack : j ≠ ackLastBit := ((by decide : ackLastBit < 2).trans_le hj).ne'
  have hnack : j ≠ nackSeenBit := ((by decide : nackSeenBit < 2).trans_le hj).ne'
  cases lvl with
  | false => exact setBit_other st _ j true hack
  | true => exact (setBit_other _ _ j true hnack).trans (setBit_other st _ j false hack)

theorem statusAfterAcks_getLsbD_of_two_le (levels : List Bool) (st : Byte) {j : Nat} (hj : 2 ≤ j) :
    (statusAfterAcks levels st).getLsbD j = st.getLsbD j := by
  induction levels generalizing st with
  | nil => rfl
  | cons lvl rest ih => exact (ih _).trans (recordAck_getLsbD_of_two_le lvl st hj)

/-- NACK_SEEN collects the high levels (43_segment_bus.md R195). -/
theorem nackSeen_statusAfterAcks (levels : List Bool) (st : Byte) :
    nackSeen (statusAfterAcks levels st) = (nackSeen st || levels.any id) := by
  induction levels generalizing st with
  | nil => exact (Bool.or_false _).symm
  | cons lvl rest ih =>
    obtain ⟨-, hnack, -⟩ := recordAck_fields lvl st
    calc nackSeen (statusAfterAcks rest (recordAck lvl st))
      _ = (nackSeen (recordAck lvl st) || rest.any id) := ih _
      _ = (nackSeen st || (lvl :: rest).any id) := by
        rw [hnack, List.any_cons, Bool.or_comm lvl, Bool.or_assoc, id]

theorem statusAfterAcks_concat (levels : List Bool) (last : Bool) (st : Byte) :
    statusAfterAcks (levels ++ [last]) st = recordAck last (statusAfterAcks levels st) :=
  List.foldl_concat _ _ _ _

/-- Settles O51: the last level alone decides ACK_LAST, the high ones accumulate in NACK_SEEN, by induction on the levels. -/
theorem acknowledgesAccumulateInStatus : Obligations.AcknowledgesAccumulateInStatus := by
  intro levels last st
  refine ⟨?_, ?_, fun j hj => statusAfterAcks_getLsbD_of_two_le _ st hj⟩
  · rw [statusAfterAcks_concat]
    exact (recordAck_fields last _).1
  · have hnack := nackSeen_statusAfterAcks (levels ++ [last]) st
    rwa [List.any_append, List.any_cons, List.any_nil, Bool.or_false, ← Bool.or_assoc] at hnack

/-! ## The byte of SEG_WRITE -/

/-- The events of a byte: its bits with their clock pulses, then the acknowledge cycle (43_segment_bus.md R193, R194). -/
theorem sbByteEvents_eq (b : Byte) (lvl : Bool) :
    sbByteEvents b lvl =
      ([0, 1, 2, 3, 4, 5, 6, 7].flatMap fun k =>
        [.sbDrive .scl, if b.getLsbD k then .sbRelease .sda else .sbDrive .sda, .sbDelay,
         .sbRelease .scl, .sbDelay, .sbDrive .scl, .sbDelay]) ++
      ([.sbRelease .sda, .sbDelay, .sbRelease .scl, .sbDelay, .sbDrive .scl, .sbDelay, .sbSense lvl] ++
        (if lvl then [.sbDrive .sda] else []) ++ [.sbDelay]) := by
  rw [sbByteEvents, sbByteBits, List.flatMap_map]
  rfl

/-- The result of SEG_WRITE is the acknowledge (43_segment_bus.md R198). -/
theorem zextBit_not (lvl : Bool) : zextBit (!lvl) = if lvl then 0 else 1 := by
  cases lvl <;> rfl

/-- Settles O48: SEG_WRITE is the byte and its acknowledge cycle at the drawn level, which `status` and `result` record. -/
theorem segWriteSendsOneByte : Obligations.SegWriteSendsOneByte := by
  rintro b s _ rfl
  rw [exec_segWrite_eq, sbByteEvents_eq, recordAck_eq, zextBit_not]
  simp only [List.append_assoc]

/-- The levels presented at the rises of SCL in a data phase are its bits, in order (43_segment_bus.md R204). -/
theorem presentedBits_bits (bits : List Bool) (l : SbLines) (rest : List Event) :
    ∃ tail, presentedBits l (bits.flatMap sbBitEvents ++ rest) = bits ++ tail := by
  induction bits generalizing l with
  | nil => exact ⟨presentedBits l rest, rfl⟩
  | cons b bs ih =>
    obtain ⟨tail, htail⟩ := ih { sclOe := true, sdaOe := !b }
    exact ⟨tail, by rw [List.flatMap_cons, List.append_assoc, presentedBits_bit, htail, List.cons_append]⟩

/-- Settles O55: the data phase presents the eight bits before anything that the acknowledge clock presents. -/
theorem segWritePresentsTheBitsLsbFirst : Obligations.SegWritePresentsTheBitsLsbFirst := by
  intro b s
  refine ⟨_, _, exec_segWrite_eq b s, rfl, ?_⟩
  obtain ⟨tail, htail⟩ := presentedBits_bits (sbByteBits b) s.sb (sbAckEvents (nextDraw s))
  rw [sbByteEvents, htail]
  rfl

/-! ## The level and the control byte -/

/-- Up to 100 percent the level is small enough for its byte (43_segment_bus.md R201). -/
theorem sbLevel_toNat {p : Byte} (h : p.toNat ≤ 100) : (sbLevel p).toNat = 7 * p.toNat / 100 := by
  rw [sbLevel, BitVec.toNat_ofNat, sbBrightMax, Nat.mod_eq_of_lt (by omega)]

theorem sbLevel_le_seven {p : Byte} (h : p.toNat ≤ 100) : (sbLevel p).toNat ≤ 7 := by
  rw [sbLevel_toNat h]
  omega

/-- A level of three bits with the enable bit at place 3 (43_segment_bus.md R201; log entry 6). -/
theorem shiftedEnable_or_level (en : Bool) {level : Byte} (h : level.toNat ≤ 7) :
    (zextBit en <<< 3) ||| level = 0#4 ++ BitVec.ofBool en ++ level.extractLsb' 0 3 := by
  revert en level
  decide

/-- Settles O53: the level is at most 7, so the enable bit at place 3 stands beside it. -/
theorem segmentLevelScale : Obligations.SegmentLevelScale := by
  refine ⟨fun p hp => ⟨sbLevel_toNat hp, sbLevel_le_seven hp⟩, fun cfg p en hbit hp => ?_, rfl⟩
  rw [displayControl, hbit]
  exact congrArg (0x80#8 + ·) (shiftedEnable_or_level en (sbLevel_le_seven hp))

/-! ## SEG_BRIGHTNESS -/

theorem exec_segBrightness_outOfRange {p : Byte} (en : Byte) (s : State) (h : 100 < p.toNat) :
    exec (.segBrightness p en) s = .next (raiseFault .percentRange s) :=
  if_pos h

/-- One byte in a frame of its own: its level is the next draw (30_encoding.md R100). -/
theorem sbFrame_singleton (b : Byte) (s : State) :
    sbFrame [b] s = { s with
      sb := { sclOe := false, sdaOe := false }
      trace := s.trace ++ (sbStartEvents ++ sbByteEvents b (nextDraw s) ++ sbStopEvents)
      status := recordAck (nextDraw s) s.status
      draws := s.draws.tail
      drawCount := s.drawCount + 1 } := by
  have hbytes : sbBytesEvents [(b, nextDraw s)] = sbByteEvents b (nextDraw s) := List.append_nil _
  rw [sbFrame_eq, List.length_singleton, nextDraws_one, List.drop_one, List.zip_cons_cons, List.zip_nil_left, hbytes]
  rfl

/-- Settles O52: up to 100 percent one frame of the control byte, above it a fault before any event. -/
theorem segBrightnessSendsTheControlByte : Obligations.SegBrightnessSendsTheControlByte := by
  refine ⟨?_, fun p en s hp => exec_segBrightness_outOfRange en s hp⟩
  rintro p en s _ hp rfl
  rw [exec_segBrightness_inRange en s hp, sbFrame_singleton, recordAck_eq]
  rfl

/-! ## SEG_RENDER -/

/-- With a slot above 9 the slots are not encoded (43_segment_bus.md R199). -/
theorem encodeSlots_of_nine_lt {s : State} {k : Fin 4} (h : 9 < s.layer[k].toInt) :
    encodeSlots s.cfg.digits s.layer.toList = .error .digitRange := by
  cases hcodes : encodeSlots s.cfg.digits s.layer.toList with
  | error c => rw [(encodeSlots_error hcodes).1]
  | ok codes =>
    have hraw : s.layer[k] ∈ s.layer.toList := by simp
    have hmem := List.mem_map_of_mem (f := encodeDigit s.cfg.digits) hraw
    rw [(encodeDigit_error _ _ _).mpr ⟨rfl, h⟩, (encodeSlots_ok _ _ _).mp hcodes] at hmem
    obtain ⟨code, -, hcode⟩ := List.mem_map.mp hmem
    cases hcode

/-- Settles O50: the first level belongs to the data command, the other five to the address and the digits. -/
theorem segRenderSendsTheLayer : Obligations.SegRenderSendsTheLayer := by
  refine ⟨?_, fun s ⟨k, hk⟩ => exec_segRender_error (encodeSlots_of_nine_lt hk)⟩
  rintro s _ hreadable rfl
  have hlen : (s.layer.toList.map (encodedByte s.cfg.digits)).length = 4 := by simp
  rw [exec_segRender_ok (encodeSlots_of_readable hreadable), map_withSeparator_eq_digitBytes, hlen, nextDraws_succ 5,
    List.append_assoc s.trace, List.drop_tail]
  rfl

end Sys2Proof.Machine
end

section
/-! The statement of 44_status.md: STATUS_READ (R230) and STATUS_CLEAR (R231). -/

namespace Sys2Proof.Machine

/-- The fields stand in the returned byte at their own places; only bit 7 is dropped (44_status.md R230). -/
theorem statusByte_eq (st : Byte) : statusByte st = st &&& 0x7F := by
  revert st
  decide

/-- Two bits cleared one after the other are cleared by one mask (44_status.md R231). -/
theorem clearSticky_eq (st : Byte) : clearSticky st = st &&& 0xF9 :=
  BitVec.and_assoc st 0xFD 0xFB

/-- Settles O58: each command writes its masked status, to `result` or back to `status`. -/
theorem statusCommandsReadAndClear : Obligations.StatusCommandsReadAndClear := by
  intro s
  rw [exec, execStatusRead, statusByte_eq, exec, execStatusClear, clearSticky_eq]
  exact ⟨rfl, rfl⟩

end Sys2Proof.Machine
end

section
/-! The statements of 60_exceptions.md: what a faulting word does (R241 to R244, R246), how commands go on under a recorded
fault (R245), and when a run ends well (R248). -/

namespace Sys2Proof.Machine

/-! ## The status fields that do not tell a fault -/

/-- OOR_SEEN, NACK_SEEN and ACK_LAST, bits 2:0 of `status` (10_state.md R29 to R31). -/
def reports (st : Byte) : BitVec 3 := st.extractLsb' 0 3

theorem reports_recordFault (c : FaultCause) (st : Byte) : reports (recordFault c st) = reports st := by
  revert st
  cases c <;> decide

theorem reports_recordOor (st : Byte) : reports (recordOor st) = reports st ||| 4 := by
  revert st
  decide

theorem reports_recordAck (lvl : Bool) (st : Byte) :
    reports (recordAck lvl st) = if lvl then (reports st &&& 6) ||| 2 else reports st ||| 1 := by
  revert st
  cases lvl <;> decide

theorem reports_clearSticky (st : Byte) : reports (clearSticky st) = reports st &&& 1 := by
  revert st
  decide

theorem reports_statusAfterAcks_congr (levels : List Bool) {st st' : Byte} (h : reports st' = reports st) :
    reports (statusAfterAcks levels st') = reports (statusAfterAcks levels st) := by
  induction levels generalizing st st' with
  | nil => exact h
  | cons lvl rest ih => exact ih (by rw [reports_recordAck, reports_recordAck, h])

/-! ## Words that fault -/

/-- The slot that LAYER_GET reads is the entry of the Layer at its index (20_memory.md R63). -/
theorem layer_getD_of_slotIndex {index : Byte} {k : Fin 4} (hk : slotIndex index = some k) (s : State) :
    s.layer.toList.getD index.toNat 0 = slot s k := by
  rw [(slotIndex_eq_some index k).mp hk]
  simp [slot, List.getD_eq_getElem?_getD]

/-- LAYER_GET of a slot above 9 raises DIGIT_RANGE (41_layer.md R144). -/
theorem exec_layerGet_of_faultOf {index : Byte} {s : State} {c : FaultCause} (h : faultOf (.layerGet index) s = some c) :
    exec (.layerGet index) s = .next (raiseFault c s) := by
  obtain ⟨⟨h0, h3, hraw⟩, hc⟩ := Option.ite_none_right_eq_some.mp h
  cases hc
  cases hk : slotIndex index with
  | none =>
    have hout := (slotIndex_eq_none index).mp hk
    omega
  | some k =>
    rw [layer_getD_of_slotIndex hk] at hraw
    exact exec_layerGet_error hk ((encodeDigit_error _ _ _).mpr ⟨rfl, hraw⟩)

/-- SEG_RENDER with a slot above 9 raises DIGIT_RANGE (43_segment_bus.md R199). -/
theorem exec_segRender_of_faultOf {s : State} {c : FaultCause} (h : faultOf .segRender s = some c) :
    exec .segRender s = .next (raiseFault c s) := by
  obtain ⟨hany, hc⟩ := Option.ite_none_right_eq_some.mp h
  cases hc
  obtain ⟨raw, hmem, hraw⟩ := List.any_eq_true.mp hany
  rw [layer_toList] at hmem
  obtain ⟨k, -, rfl⟩ := List.mem_map.mp hmem
  exact exec_segRender_error (encodeSlots_of_nine_lt (of_decide_eq_true hraw))

/-- The conditions of the table of causes are sufficient: a command that meets one raises its cause and does nothing else
(60_exceptions.md R241, R243). -/
theorem exec_of_faultOf {i : Instr} {s : State} {c : FaultCause} (h : faultOf i s = some c) :
    exec i s = .next (raiseFault c s) := by
  cases i with
  | frameSetRaw row col v =>
    obtain ⟨hrow, hc⟩ := Option.ite_none_right_eq_some.mp h
    cases hc
    exact exec_frameSetRaw_rowOutOfRange ((coord_eq_none row).mpr hrow) col v s
  | layerGet index => exact exec_layerGet_of_faultOf h
  | segRender => exact exec_segRender_of_faultOf h
  | mbBrightness percent =>
    obtain ⟨hp, hc⟩ := Option.ite_none_right_eq_some.mp h
    cases hc
    exact exec_mbBrightness_outOfRange s hp
  | segBrightness percent en =>
    obtain ⟨hp, hc⟩ := Option.ite_none_right_eq_some.mp h
    cases hc
    exact exec_segBrightness_outOfRange en s hp
  | _ => cases h

theorem runWord_of_faultOfWord {w : Word} {s : State} {c : FaultCause} (h : faultOfWord w s = some c) :
    runWord w s = .next (raiseFault c s) := by
  rw [faultOfWord] at h
  cases hd : decode w with
  | ok i =>
    rw [hd] at h
    rw [runWord_ok hd, exec_of_faultOf h]
  | error e =>
    rw [hd] at h
    cases h
    exact runWord_error hd s

/-- The conditions of the table of causes are necessary: a word that meets none leaves FAULT and FAULT_CAUSE alone
(60_exceptions.md R241). -/
theorem runWord_of_faultOfWord_eq_none {w : Word} {s : State} (h : faultOfWord w s = none) :
    ∃ t, runWord w s = .next t ∧ SameFault s.status t.status := by
  rw [faultOfWord] at h
  cases hd : decode w with
  | ok i =>
    rw [hd] at h
    obtain ⟨t, ht, heffect⟩ := exec_effect i s
    obtain ⟨c, hc, -⟩ | hsame := heffect.statusWrite.fault_or_same
    · cases hc.symm.trans h
    · exact ⟨t, (runWord_ok hd s).trans ht, hsame⟩
  | error e =>
    rw [hd] at h
    cases h

/-- Settles O21: a word that meets a condition of the table of causes is `raiseFault` and nothing else, any other word keeps
the fault fields. -/
theorem faultingWordOnlyRecordsTheFault : Obligations.FaultingWordOnlyRecordsTheFault := by
  refine ⟨fun w s c h => ?_, fun w s h => ?_⟩
  · obtain ⟨hfault, hcause, -, -, -, h7⟩ := recordFault_fields c s.status
    refine ⟨_, runWord_of_faultOfWord h, rfl, hfault, fun hclear => ?_, fun hset => hcause.trans (if_pos hset),
      reports_recordFault c s.status, h7⟩
    have hcode : causeField (recordFault c s.status) = c.code := hcause.trans (if_neg (Bool.eq_false_iff.mp hclear))
    cases c <;> exact hcode
  · obtain ⟨t, ht, hfault, hcause, -⟩ := runWord_of_faultOfWord_eq_none h
    exact ⟨t, ht, hfault, hcause⟩

/-! ## Commands under a recorded fault -/

/-- The state with another `status`. -/
def State.withStatus (st : Byte) (s : State) : State := { s with status := st }

/-- `t'` is `t` but for FAULT, FAULT_CAUSE and the reserved bit of `status`. -/
def SameButFault (t t' : State) : Prop := t' = t.withStatus t'.status ∧ reports t'.status = reports t.status

/-- A recorded fault does not interfere: every command but STATUS_READ, run with another fault in `status`, leaves the same
state but for the fault (60_exceptions.md R245). -/
theorem exec_withStatus {i : Instr} (hi : i ≠ .statusRead) {s : State} {st : Byte} (h : reports st = reports s.status) :
    ∃ t t', exec i s = .next t ∧ exec i (s.withStatus st) = .next t' ∧ SameButFault t t' := by
  have hfault (c : FaultCause) : reports (recordFault c st) = reports (recordFault c s.status) := by
    rw [reports_recordFault, reports_recordFault, h]
  have hoor : reports (recordOor st) = reports (recordOor s.status) := by
    rw [reports_recordOor, reports_recordOor, h]
  have hacks (levels : List Bool) := reports_statusAfterAcks_congr levels h
  have hclear : reports (clearSticky st) = reports (clearSticky s.status) := by
    rw [reports_clearSticky, reports_clearSticky, h]
  cases i with
  | frameClear => exact ⟨_, _, rfl, rfl, rfl, h⟩
  | frameGet row col =>
    simp only [exec, execFrameGet]
    split
    · exact ⟨_, _, rfl, rfl, rfl, h⟩
    · exact ⟨_, _, rfl, rfl, rfl, hoor⟩
  | frameSet row col v =>
    simp only [exec, execFrameSet]
    split
    · exact ⟨_, _, rfl, rfl, rfl, h⟩
    · exact ⟨_, _, rfl, rfl, rfl, hoor⟩
  | frameSetRaw row col v =>
    simp only [exec, execFrameSetRaw]
    split
    · exact ⟨_, _, rfl, rfl, rfl, hfault .rawRowRange⟩
    · split
      · exact ⟨_, _, rfl, rfl, rfl, h⟩
      · exact ⟨_, _, rfl, rfl, rfl, hoor⟩
  | frameRowRead row => exact ⟨_, _, rfl, rfl, rfl, h⟩
  | frameRowWrite row data => exact ⟨_, _, rfl, rfl, rfl, h⟩
  | layerClear => exact ⟨_, _, rfl, rfl, rfl, h⟩
  | layerGet index =>
    cases hk : slotIndex index with
    | none => exact ⟨_, _, exec_layerGet_outOfRange hk, exec_layerGet_outOfRange hk, rfl, hoor⟩
    | some k =>
      cases hc : encodeDigit s.cfg.digits (slot s k) with
      | ok code => exact ⟨_, _, exec_layerGet_ok hk hc, exec_layerGet_ok hk hc, rfl, h⟩
      | error c => exact ⟨_, _, exec_layerGet_error hk hc, exec_layerGet_error hk hc, rfl, hfault c⟩
  | layerSet index raw =>
    simp only [exec, execLayerSet]
    split
    · exact ⟨_, _, rfl, rfl, rfl, h⟩
    · exact ⟨_, _, rfl, rfl, rfl, hoor⟩
  | mbInit =>
    simp only [exec, execMbInit, mbTransactions_eq]
    exact ⟨_, _, rfl, rfl, rfl, h⟩
  | mbRender =>
    simp only [exec, execMbRender, mbTransactions_eq]
    exact ⟨_, _, rfl, rfl, rfl, h⟩
  | mbBrightness percent =>
    simp only [exec, execMbBrightness, mbTransaction_eq]
    split
    · exact ⟨_, _, rfl, rfl, rfl, hfault .percentRange⟩
    · exact ⟨_, _, rfl, rfl, rfl, h⟩
  | mbXfer addr data =>
    simp only [exec, execMbXfer, mbTransaction_eq]
    exact ⟨_, _, rfl, rfl, rfl, h⟩
  | segRender =>
    cases hc : encodeSlots s.cfg.digits s.layer.toList with
    | ok codes => exact ⟨_, _, exec_segRender_ok hc, exec_segRender_ok hc, rfl, hacks _⟩
    | error c => exact ⟨_, _, exec_segRender_error hc, exec_segRender_error hc, rfl, hfault c⟩
  | segBrightness percent en =>
    simp only [exec, execSegBrightness, sbFrame_eq]
    split
    · exact ⟨_, _, rfl, rfl, rfl, hfault .percentRange⟩
    · exact ⟨_, _, rfl, rfl, rfl, hacks _⟩
  | segConfig sep => exact ⟨_, _, rfl, rfl, rfl, h⟩
  | segStart =>
    simp only [exec, execSegStart, sbStart_eq]
    exact ⟨_, _, rfl, rfl, rfl, h⟩
  | segStop =>
    simp only [exec, execSegStop, sbStop_eq]
    exact ⟨_, _, rfl, rfl, rfl, h⟩
  | segWrite byte => exact ⟨_, _, exec_segWrite_eq byte _, exec_segWrite_eq byte _, rfl, hacks [nextDraw s]⟩
  | statusRead => exact absurd rfl hi
  | statusClear => exact ⟨_, _, rfl, rfl, rfl, hclear⟩

/-- Settles O22: STATUS_READ writes `result` alone, every other command is the lemma above. -/
theorem commandsIgnoreARecordedFault : Obligations.CommandsIgnoreARecordedFault := by
  intro i s t st hst h
  by_cases hi : i = .statusRead
  · subst hi
    cases h
    exact ⟨_, rfl, rfl, absurd rfl, hst⟩
  · obtain ⟨t₀, t', h₀, h', hsame, hreports⟩ := exec_withStatus hi hst
    rw [h] at h₀
    cases h₀
    have hresult : t'.result = t.result := (congrArg State.result hsame).trans rfl
    refine ⟨t', h', ?_, fun _ => hresult, hreports⟩
    rw [hresult]
    exact hsame

/-! ## Runs -/

/-- A run goes on from the state its first input leaves. -/
theorem endsWell_cons {input : HostInput} {s t : State} (h : runInput input s = .next t) (rest : List HostInput) :
    endsWell (input :: rest) s = endsWell rest t := by
  rw [endsWell, endsWell, runInputs, h]
  cases hrest : runInputs rest t <;> simp only [hrest]

theorem neverFaults_cons {w : Word} {s t : State} (h : runWord w s = .next t) (rest : List Word) :
    neverFaults (w :: rest) s = ((faultOfWord w s).isNone && neverFaults rest t) := by
  rw [neverFaults, h]

/-- No run of command words clears a fault that stands before it (60_exceptions.md R245). -/
theorem endsWell_of_faulted (ws : List Word) {s : State} (h : s.faulted = true) :
    endsWell (ws.map .command) s = false := by
  induction ws generalizing s with
  | nil => exact congrArg not h
  | cons w rest ih =>
    obtain ⟨t, ht, -⟩ := runInput_completes (.command w) s
    rw [List.map_cons, endsWell_cons ht]
    exact ih (fault_stays (runWord_fault_or_same ht) h).1

/-- Settles O24, by induction on the words: the first one that faults decides the run, and one that does not leaves an
unfaulted state. -/
theorem runEndsWellIffNothingFaults : Obligations.RunEndsWellIffNothingFaults := by
  intro ws s hs
  induction ws generalizing s with
  | nil => exact congrArg not hs
  | cons w rest ih =>
    cases hc : faultOfWord w s with
    | some c =>
      have hrun := runWord_of_faultOfWord hc
      have hfaulted : (raiseFault c s).faulted = true := (recordFault_fields c s.status).1
      rw [List.map_cons, endsWell_cons (input := .command w) hrun, endsWell_of_faulted rest hfaulted, neverFaults_cons hrun, hc]
      rfl
    | none =>
      obtain ⟨t, ht, hsame⟩ := runWord_of_faultOfWord_eq_none hc
      rw [List.map_cons, endsWell_cons (input := .command w) ht, ih t (hsame.fault.trans hs), neverFaults_cons ht, hc]
      rfl

end Sys2Proof.Machine
end

section
/-! The statements of 70_reset_and_hazards.md: the reset state and the reset input (R270 to R272), the event counts (R282), and
what the targets receive in a tick (R274, R279). -/

namespace Sys2Proof.Machine

/-! ## Reset -/

/-- Settles O13: the reset input at the head of the queue is taken and runs as `resetBlock`. -/
theorem resetInputRestoresTheBlock : Obligations.ResetInputRestoresTheBlock := fun _ _ hin => step_of_inbox hin

/-- Settles O14: the reset state is what the reset input leaves of itself. -/
theorem resetMeetsTheInvariant : Obligations.ResetMeetsTheInvariant := resetBlock_inv State.reset

/-! ## Event counts -/

/-- The events are `n`, and one more for each high level sensed, and `d` of them are delays (70_reset_and_hazards.md R282,
43_segment_bus.md R205). -/
def HasCounts (n d : Nat) (es : List Event) : Prop := es.length = n + es.count (.sbSense true) ∧ delayCount es = d

theorem hasCounts_nil : HasCounts 0 0 [] := ⟨rfl, rfl⟩

theorem HasCounts.append {n d n' d' : Nat} {es es' : List Event} (h : HasCounts n d es) (h' : HasCounts n' d' es') :
    HasCounts (n + n') (d + d') (es ++ es') := by
  obtain ⟨hlen, hdelay⟩ := h
  obtain ⟨hlen', hdelay'⟩ := h'
  refine ⟨?_, ?_⟩
  · rw [List.length_append, List.count_append, hlen, hlen']
    omega
  · rw [delayCount, List.count_append]
    exact congrArg₂ (· + ·) hdelay hdelay'

/-- Transactions are 50 events each (42_matrix_bus.md R160). -/
theorem hasCounts_transactions (words : List (Byte × Byte)) :
    HasCounts (50 * words.length) 0 (words.flatMap mbWordEvents) := by
  induction words with
  | nil => exact hasCounts_nil
  | cons w rest ih =>
    obtain ⟨hlen, hdelay, hsense⟩ := mbWordEvents_counts w
    have hword : HasCounts 50 0 (mbWordEvents w) := ⟨by rw [hlen, hsense], hdelay⟩
    rw [List.flatMap_cons, List.length_cons, Nat.mul_succ, Nat.add_comm]
    exact hword.append ih

/-- Bytes are 64 events each, 28 of them delays (43_segment_bus.md R205). -/
theorem hasCounts_sbBytesEvents (sent : List (Byte × Bool)) :
    HasCounts (64 * sent.length) (28 * sent.length) (sbBytesEvents sent) := by
  induction sent with
  | nil => exact hasCounts_nil
  | cons x rest ih =>
    rw [List.length_cons, Nat.mul_succ, Nat.mul_succ, Nat.add_comm, Nat.add_comm (28 * _)]
    exact HasCounts.append (sbByteEvents_counts x.1 x.2) ih

/-- A frame adds a start condition of 2 events and a stop condition of 6 (43_segment_bus.md R191, R192). -/
theorem hasCounts_frame {sent : List (Byte × Bool)} {k : Nat} (h : sent.length = k) :
    HasCounts (2 + 64 * k + 6) (1 + 28 * k + 3) (sbFrameEvents sent) := by
  subst h
  have hstart : HasCounts 2 1 sbStartEvents := ⟨rfl, rfl⟩
  have hstop : HasCounts 6 3 sbStopEvents := ⟨rfl, rfl⟩
  exact (hstart.append (hasCounts_sbBytesEvents sent)).append hstop

/-- From `s` to `t` the trace grew by events with these counts. -/
def AppendsCounts (n d : Nat) (s t : State) : Prop := ∃ es, t.trace = s.trace ++ es ∧ HasCounts n d es

theorem mbTransactions_counts (words : List (Byte × Byte)) (s : State) :
    ∃ t, finish 0x00 (mbTransactions words s) = .next t ∧ AppendsCounts (50 * words.length) 0 s t := by
  rw [mbTransactions_eq]
  exact ⟨_, rfl, _, rfl, hasCounts_transactions words⟩

theorem mbTransaction_counts (addr data : Byte) (s : State) :
    ∃ t, finish 0x00 (mbTransaction addr data s) = .next t ∧ AppendsCounts 50 0 s t :=
  mbTransactions_counts [(addr, data)] s

theorem encodeSlots_length {t : DigitTable} {raws codes : List Byte} (h : encodeSlots t raws = .ok codes) :
    codes.length = raws.length := by
  simpa using congrArg List.length ((encodeSlots_ok t raws codes).mp h).symm

/-- SEG_RENDER is a frame of one byte and a frame of five (70_reset_and_hazards.md R282). -/
theorem segRender_counts {s : State} (h : faultOf .segRender s = none) :
    ∃ t, exec .segRender s = .next t ∧ AppendsCounts 400 176 s t := by
  cases hc : encodeSlots s.cfg.digits s.layer.toList with
  | error c => cases (faultOf_segRender hc).symm.trans h
  | ok codes =>
    have hfour : codes.length = 4 := (encodeSlots_length hc).trans (Vector.length_toList)
    have hframes := (hasCounts_frame (sent := [(sbCmdData, nextDraw s)]) (k := 1) rfl).append
      (hasCounts_frame (sent := ((sbCmdAddr + 0) :: codes.map (withSeparator (separator s.segctl))).zip
        (nextDraws (codes.length + 1) (takeDraw s))) (k := 5) (by simp [hfour]))
    exact ⟨_, exec_segRender_ok hc, _, rfl, hframes⟩

/-- A command whose number of events is 0 uses no bus (70_reset_and_hazards.md R282). -/
theorem exec_counts_of_silent {i : Instr} (s : State) (h : eventCount i = 0) :
    ∃ t, exec i s = .next t ∧ AppendsCounts 0 0 s t := by
  obtain ⟨t, ht, huse⟩ := exec_busUse i s
  obtain ⟨es, htrace, -, hsilent⟩ := huse.appends
  obtain rfl : es = [] := by_contra fun hne => hsilent hne h
  exact ⟨t, ht, [], htrace, hasCounts_nil⟩

/-- A percent that raises no PERCENT_RANGE is at most 100 (60_exceptions.md R241). -/
theorem percent_le_of_faultOf {p : Byte} (h : (if 100 < p.toNat then some FaultCause.percentRange else none) = none) :
    p.toNat ≤ 100 :=
  not_lt.mp fun hp => Option.some_ne_none _ ((if_pos hp).symm.trans h)

/-- A command that does not fault emits its number of events and of delays (70_reset_and_hazards.md R282). -/
theorem exec_counts {i : Instr} {s : State} (h : faultOf i s = none) :
    ∃ t, exec i s = .next t ∧ AppendsCounts (eventCount i) (delayEventCount i) s t := by
  cases i with
  | mbInit => exact mbTransactions_counts (mbInitWords s.cfg) s
  | mbRender => exact mbTransactions_counts (mbRenderWords s.frame) s
  | mbXfer addr data => exact mbTransaction_counts addr data s
  | mbBrightness p =>
    rw [exec_mbBrightness_inRange s (percent_le_of_faultOf h)]
    exact mbTransaction_counts _ _ s
  | segRender => exact segRender_counts h
  | segBrightness p en =>
    rw [exec_segBrightness_inRange en s (percent_le_of_faultOf h), sbFrame_eq]
    exact ⟨_, rfl, _, rfl, hasCounts_frame (k := 1) (by simp)⟩
  | segStart =>
    rw [exec, execSegStart, sbStart_eq]
    exact ⟨_, rfl, _, rfl, rfl, rfl⟩
  | segStop =>
    rw [exec, execSegStop, sbStop_eq]
    exact ⟨_, rfl, _, rfl, rfl, rfl⟩
  | segWrite b => exact ⟨_, exec_segWrite_eq b s, _, rfl, sbByteEvents_counts b _⟩
  | _ => exact exec_counts_of_silent s rfl

/-- Settles O57: the counts of a command that does not fault, and a faulting command is `raiseFault`, which keeps the trace. -/
theorem eventCountsAreAsListed : Obligations.EventCountsAreAsListed := by
  intro i s t es hexec htrace
  refine ⟨fun hnone => ?_, fun hfault => ?_⟩
  · obtain ⟨t', ht', es', htrace', hcounts⟩ := exec_counts hnone
    cases hexec.symm.trans ht'
    obtain rfl : es = es' := List.append_cancel_left (htrace.symm.trans htrace')
    exact hcounts
  · obtain ⟨c, hc⟩ := Option.ne_none_iff_exists'.mp hfault
    cases hexec.symm.trans (exec_of_faultOf hc)
    exact List.self_eq_append_right.mp htrace

/-! ## What the targets make of the events of both buses -/

/-- Events on either bus that carry whole transactions of `words` and whole frames of `frames`, each in its order. -/
structure Carries (words : List (Byte × Byte)) (frames : List (List Byte)) (es : List Event) : Prop where
  /-- The events of the matrix bus. -/
  matrix : es.filter Event.isMatrix = words.flatMap mbWordEvents
  /-- The events of the segment bus, with the levels of their acknowledges left open. -/
  segment : ∃ sents : List (List (Byte × Bool)),
    es.filter (!Event.isMatrix ·) = sents.flatMap sbFrameEvents ∧ sents.map (·.map Prod.fst) = frames
  /-- Every frame has a byte, which `segmentFrames_flatMap` asks for. -/
  nonempty : [] ∉ frames

theorem carries_nil : Carries [] [] [] := ⟨rfl, ⟨[], rfl, rfl⟩, List.not_mem_nil⟩

theorem Carries.append {words words' : List (Byte × Byte)} {frames frames' : List (List Byte)} {es es' : List Event}
    (h : Carries words frames es) (h' : Carries words' frames' es') :
    Carries (words ++ words') (frames ++ frames') (es ++ es') := by
  obtain ⟨hmatrix, ⟨sents, hsegment, rfl⟩, hne⟩ := h
  obtain ⟨hmatrix', ⟨sents', hsegment', rfl⟩, hne'⟩ := h'
  refine ⟨?_, ⟨sents ++ sents', ?_, List.map_append⟩, ?_⟩
  · rw [List.filter_append, hmatrix, hmatrix', List.flatMap_append]
  · rw [List.filter_append, hsegment, hsegment', List.flatMap_append]
  · rw [List.mem_append]
    exact not_or.mpr ⟨hne, hne'⟩

theorem carries_transactions (words : List (Byte × Byte)) : Carries words [] (words.flatMap mbWordEvents) := by
  have hbus := onMatrixBus_transactions words
  refine ⟨List.filter_eq_self.mpr hbus, ⟨[], ?_, rfl⟩, List.not_mem_nil⟩
  exact List.filter_eq_nil_iff.mpr fun e he => by simp [hbus e he]

/-- A frame carries its bytes, whatever the levels of their acknowledges (30_encoding.md R100). -/
theorem carries_frame (b : Byte) (rest : List Byte) {levels : List Bool} (h : rest.length + 1 ≤ levels.length) :
    Carries [] [b :: rest] (sbFrameEvents ((b :: rest).zip levels)) := by
  have hbus := onSegmentBus_frame ((b :: rest).zip levels)
  have hbytes : ((b :: rest).zip levels).map Prod.fst = b :: rest := List.map_fst_zip h
  refine ⟨?_, ⟨[(b :: rest).zip levels], ?_, congrArg ([·]) hbytes⟩, by simp⟩
  · exact List.filter_eq_nil_iff.mpr fun e he => by simp [hbus e he]
  · rw [List.flatMap_singleton]
    exact List.filter_eq_self.mpr fun e he => by simp [hbus e he]

/-- The matrix target does not see the segment bus. -/
theorem MatrixView.see_filter (edge : ClockEdge) (es : List Event) (v : MatrixView) :
    (es.filter Event.isMatrix).foldl (MatrixView.see edge) v = es.foldl (MatrixView.see edge) v := by
  rw [List.foldl_filter]
  congr
  funext v e
  cases e <;> rfl

/-- The segment target does not see the matrix bus. -/
theorem SegmentView.see_filter (es : List Event) (v : SegmentView) :
    (es.filter (!Event.isMatrix ·)).foldl SegmentView.see v = es.foldl SegmentView.see v := by
  rw [List.foldl_filter]
  congr
  funext v e
  cases e <;> rfl

section
variable {words : List (Byte × Byte)} {frames : List (List Byte)} {es : List Event}

theorem Carries.matrixWords_eq (h : Carries words frames es) (edge : ClockEdge) {l : MbLines} (hclk : l.clk = false)
    (hload : l.load = true) : matrixWords edge l es = words.map mbWordBits := by
  rw [← matrixWords_flatMap edge words l hclk hload, ← h.matrix, matrixWords, matrixWords, MatrixView.see_filter]

theorem Carries.segmentFrames_eq (h : Carries words frames es) {l : SbLines}
    (hidle : l = { sclOe := false, sdaOe := false }) : segmentFrames l es = frames := by
  obtain ⟨sents, hsegment, hsents⟩ := h.segment
  rw [← segmentFrames_flatMap hidle hsents h.nonempty, ← hsegment, segmentFrames, segmentFrames, SegmentView.see_filter]

end

/-! ## Runs of commands, and pairs of runs that send the same -/

theorem execAll_append {is : List Instr} {s t : State} (h : execAll is s = .next t) (js : List Instr) :
    execAll (is ++ js) s = execAll js t := by
  induction is generalizing s with
  | nil =>
    cases h
    rfl
  | cons i rest ih =>
    obtain ⟨u, hu, -⟩ := exec_completes i s
    rw [execAll_cons hu] at h
    rw [List.cons_append, execAll_cons hu, ih h]

/-- The commands run from `s` to `t` and send `words` on the matrix bus and `frames` on the segment bus. -/
def Sends (is : List Instr) (words : List (Byte × Byte)) (frames : List (List Byte)) (s t : State) : Prop :=
  execAll is s = .next t ∧ ∃ es, t.trace = s.trace ++ es ∧ Carries words frames es

section
variable {words words' : List (Byte × Byte)} {frames frames' : List (List Byte)} {is js : List Instr} {i : Instr}
  {s t u : State}

theorem Sends.append (h : Sends is words frames s t) (h' : Sends js words' frames' t u) :
    Sends (is ++ js) (words ++ words') (frames ++ frames') s u := by
  obtain ⟨hrun, es, htrace, hes⟩ := h
  obtain ⟨hrun', es', htrace', hes'⟩ := h'
  exact ⟨(execAll_append hrun js).trans hrun', es ++ es', by rw [htrace', htrace, List.append_assoc], hes.append hes'⟩

theorem sends_of_exec {es : List Event} (h : exec i s = .next t) (htrace : t.trace = s.trace ++ es)
    (hes : Carries words frames es) : Sends [i] words frames s t :=
  ⟨execAll_cons h [], es, htrace, hes⟩

end

/-- From `s1` and `s2` the commands send both targets the same, and leave states that `R` relates. -/
def SendAlike (is : List Instr) (R : State → State → Prop) (s1 s2 : State) : Prop :=
  ∃ words frames t1 t2, Sends is words frames s1 t1 ∧ Sends is words frames s2 t2 ∧ R t1 t2

/-- The parameters and the separator are the same. -/
def SameSettings (s1 s2 : State) : Prop := s1.cfg = s2.cfg ∧ separator s1.segctl = separator s2.segctl

/-- All that a render sends from is the same: the settings, the Frame and the Layer. -/
def SamePicture (s1 s2 : State) : Prop := SameSettings s1 s2 ∧ s1.frame = s2.frame ∧ s1.layer = s2.layer

section
variable {R Q : State → State → Prop} {is js : List Instr} {i : Instr} {s1 s2 t1 t2 : State}

theorem SendAlike.append (h : SendAlike is R s1 s2) (h' : ∀ {t1 t2}, R t1 t2 → SendAlike js Q t1 t2) :
    SendAlike (is ++ js) Q s1 s2 := by
  obtain ⟨words, frames, t1, t2, hsends1, hsends2, hrel⟩ := h
  obtain ⟨words', frames', u1, u2, hsends1', hsends2', hrel'⟩ := h' hrel
  exact ⟨_, _, u1, u2, hsends1.append hsends1', hsends2.append hsends2', hrel'⟩

/-- A command that emits nothing sends nothing. -/
theorem sendAlike_of_silent (h1 : exec i s1 = .next t1) (h2 : exec i s2 = .next t2) (htrace1 : t1.trace = s1.trace)
    (htrace2 : t2.trace = s2.trace) (hrel : R t1 t2) : SendAlike [i] R s1 s2 :=
  ⟨[], [], t1, t2, sends_of_exec h1 (htrace1.trans (List.append_nil _).symm) carries_nil,
    sends_of_exec h2 (htrace2.trans (List.append_nil _).symm) carries_nil, hrel⟩

/-! ## The commands of a tick -/

/-- MB_BRIGHTNESS sends from the parameters alone, or faults alike (42_matrix_bus.md R166). -/
theorem sendAlike_mbBrightness (p : Byte) (h : SameSettings s1 s2) : SendAlike [.mbBrightness p] SameSettings s1 s2 := by
  have ⟨hcfg, _⟩ := h
  by_cases hp : p.toNat ≤ 100
  · have hexec (s : State) := (exec_mbBrightness_inRange s hp).trans (finish_mbTransaction _ _ s)
    have hword (cfg : Config) := carries_transactions [(cfg.mbRegIntensity, mbIntensity p)]
    refine ⟨_, _, _, _, sends_of_exec (hexec s1) rfl (hword s1.cfg), sends_of_exec (hexec s2) rfl ?_, h⟩
    rw [hcfg]
    exact hword s2.cfg
  · have hfault := not_le.mp hp
    exact sendAlike_of_silent (exec_mbBrightness_outOfRange s1 hfault) (exec_mbBrightness_outOfRange s2 hfault) rfl rfl h

/-- SEG_BRIGHTNESS sends from the parameters alone, or faults alike (43_segment_bus.md R202). -/
theorem sendAlike_segBrightness (p en : Byte) (h : SameSettings s1 s2) :
    SendAlike [.segBrightness p en] SameSettings s1 s2 := by
  have ⟨hcfg, _⟩ := h
  by_cases hp : p.toNat ≤ 100
  · have hexec (s : State) := (exec_segBrightness_inRange en s hp).trans (congrArg (finish 0x00) (sbFrame_eq _ s))
    have hframe (s : State) := carries_frame (displayControl s.cfg p (bitOf en)) [] (nextDraws_length 1 s).ge
    refine ⟨_, _, _, _, sends_of_exec (hexec s1) rfl (hframe s1), sends_of_exec (hexec s2) rfl ?_, h⟩
    rw [hcfg]
    exact hframe s2
  · have hfault := not_le.mp hp
    exact sendAlike_of_silent (exec_segBrightness_outOfRange en s1 hfault) (exec_segBrightness_outOfRange en s2 hfault)
      rfl rfl h

/-- After CANVAS_CLEAR nothing of an earlier picture is left (30_encoding.md R91). -/
theorem sendAlike_canvasClear (h : SameSettings s1 s2) : SendAlike canvasClear SamePicture s1 s2 := by
  have hframe : SendAlike [.frameClear] (fun t1 t2 => SameSettings t1 t2 ∧ t1.frame = t2.frame) s1 s2 :=
    sendAlike_of_silent rfl rfl rfl rfl ⟨h, rfl⟩
  exact hframe.append fun ⟨hset, heq⟩ => sendAlike_of_silent rfl rfl rfl rfl ⟨hset, heq, rfl⟩

/-- FRAME_SET on the same picture leaves the same picture (40_frame.md R113). -/
theorem exec_frameSet_samePicture (row col v : Byte) (h : SamePicture s1 s2) :
    ∃ t1 t2, exec (.frameSet row col v) s1 = .next t1 ∧ exec (.frameSet row col v) s2 = .next t2 ∧
      t1.trace = s1.trace ∧ t2.trace = s2.trace ∧ SamePicture t1 t2 := by
  by_cases hout : coord row = none ∨ coord col = none
  · exact ⟨_, _, exec_frameSet_outOfRange hout v s1, exec_frameSet_outOfRange hout v s2, rfl, rfl, h⟩
  · obtain ⟨hrow, hcol⟩ := not_or.mp hout
    obtain ⟨r, hr⟩ := Option.ne_none_iff_exists'.mp hrow
    obtain ⟨c, hc⟩ := Option.ne_none_iff_exists'.mp hcol
    obtain ⟨hset, hframe, hlayer⟩ := h
    refine ⟨_, _, exec_frameSet_inRange hr hc v s1, exec_frameSet_inRange hr hc v s2, rfl, rfl, hset, ?_, hlayer⟩
    simp only [writePixel, writeRow_frame, frameRow, hframe]

/-- A Frame or Layer write emits nothing, and what it writes depends on the Frame and the Layer alone. -/
theorem sendAlike_canvasWrite (hi : isCanvasWrite i = true) (h : SamePicture s1 s2) :
    SendAlike [i] SamePicture s1 s2 := by
  have ⟨hset, hframe, hlayer⟩ := h
  cases i with
  | frameClear => exact sendAlike_of_silent rfl rfl rfl rfl ⟨hset, rfl, hlayer⟩
  | layerClear => exact sendAlike_of_silent rfl rfl rfl rfl ⟨hset, hframe, rfl⟩
  | frameRowWrite row data =>
    exact sendAlike_of_silent rfl rfl rfl rfl ⟨hset, congrArg (·.set (rowIndex row) data) hframe, hlayer⟩
  | frameSet row col v =>
    obtain ⟨t1, t2, h1, h2, htrace1, htrace2, ht⟩ := exec_frameSet_samePicture row col v h
    exact sendAlike_of_silent h1 h2 htrace1 htrace2 ht
  | frameSetRaw row col v =>
    cases hr : coord row with
    | none =>
      exact sendAlike_of_silent (exec_frameSetRaw_rowOutOfRange hr col v s1) (exec_frameSetRaw_rowOutOfRange hr col v s2)
        rfl rfl h
    | some r =>
      obtain ⟨t1, t2, h1, h2, htrace1, htrace2, ht⟩ := exec_frameSet_samePicture row col v h
      exact sendAlike_of_silent ((exec_frameSetRaw_eq_frameSet hr col v s1).trans h1)
        ((exec_frameSetRaw_eq_frameSet hr col v s2).trans h2) htrace1 htrace2 ht
  | layerSet index raw =>
    cases hk : slotIndex index with
    | some k =>
      exact sendAlike_of_silent (exec_layerSet_inRange hk raw s1) (exec_layerSet_inRange hk raw s2) rfl rfl
        ⟨hset, hframe, congrArg (·.set k raw) hlayer⟩
    | none =>
      exact sendAlike_of_silent (exec_layerSet_outOfRange hk raw s1) (exec_layerSet_outOfRange hk raw s2) rfl rfl h
  | _ => cases hi

theorem sendAlike_canvasWrites {writes : List Instr} (hwrites : ∀ i ∈ writes, isCanvasWrite i = true)
    (h : SamePicture s1 s2) : SendAlike writes SamePicture s1 s2 := by
  induction writes generalizing s1 s2 with
  | nil => exact ⟨[], [], s1, s2, ⟨rfl, [], (List.append_nil _).symm, carries_nil⟩,
      ⟨rfl, [], (List.append_nil _).symm, carries_nil⟩, h⟩
  | cons i rest ih =>
    obtain ⟨hi, hrest⟩ := List.forall_mem_cons.mp hwrites
    exact (sendAlike_canvasWrite hi h).append (ih hrest)

/-- A render of the same Frame sends the same words (42_matrix_bus.md R164). -/
theorem sendAlike_mbRender (h : SamePicture s1 s2) : SendAlike [.mbRender] SamePicture s1 s2 := by
  have ⟨_, hframe, _⟩ := h
  have hexec (s : State) : exec .mbRender s = _ := congrArg (finish 0x00) (mbTransactions_eq (mbRenderWords s.frame) s)
  refine ⟨_, _, _, _, sends_of_exec (hexec s1) rfl (carries_transactions _), sends_of_exec (hexec s2) rfl ?_, h⟩
  rw [hframe]
  exact carries_transactions _

/-- A render of the same Layer with the same settings sends the same digits, or faults alike (43_segment_bus.md R199). -/
theorem sendAlike_segRender (h : SamePicture s1 s2) : SendAlike [.segRender] SamePicture s1 s2 := by
  have ⟨⟨hcfg, hsep⟩, _, hlayer⟩ := h
  have hcodes : encodeSlots s1.cfg.digits s1.layer.toList = encodeSlots s2.cfg.digits s2.layer.toList := by
    rw [hcfg, hlayer]
  cases hc : encodeSlots s1.cfg.digits s1.layer.toList with
  | error c =>
    exact sendAlike_of_silent (exec_segRender_error hc) (exec_segRender_error (hcodes.symm.trans hc)) rfl rfl h
  | ok codes =>
    have hframes (s : State) := (carries_frame sbCmdData [] (levels := [nextDraw s]) le_rfl).append
      (carries_frame (sbCmdAddr + 0) (codes.map (withSeparator (separator s.segctl)))
        (levels := nextDraws (codes.length + 1) (takeDraw s)) (by simp))
    refine ⟨_, _, _, _, sends_of_exec (exec_segRender_ok hc) rfl (hframes s1),
      sends_of_exec (exec_segRender_ok (hcodes.symm.trans hc)) rfl ?_, h⟩
    rw [hsep]
    exact hframes s2

/-- A tick, phase by phase: the clear turns the same settings into the same picture (70_reset_and_hazards.md R274, R279). -/
theorem sendAlike_tick (p : Byte) {writes : List Instr} (hwrites : ∀ i ∈ writes, isCanvasWrite i = true)
    (h : SameSettings s1 s2) : SendAlike (tick p writes) SamePicture s1 s2 := by
  have hbrightness : SendAlike (brightnessAll p) SameSettings s1 s2 :=
    (sendAlike_mbBrightness p h).append (sendAlike_segBrightness p 1)
  have hrender {t1 t2 : State} (ht : SamePicture t1 t2) : SendAlike renderAll SamePicture t1 t2 :=
    (sendAlike_mbRender ht).append sendAlike_segRender
  exact hbrightness.append fun h1 =>
    ((sendAlike_canvasClear h1).append (sendAlike_canvasWrites hwrites)).append hrender

end

/-- Settles O60: the two ticks send the same, and targets at rest receive exactly what is sent. -/
theorem tickShowsOnlyItsOwnWrites : Obligations.TickShowsOnlyItsOwnWrites := by
  intro edge p writes s1 s2 hwrites hcfg hsep hidle1 hidle2 hclk1 hload1 hclk2 hload2
  obtain ⟨words, frames, t1, t2, ⟨hrun1, es1, htrace1, hes1⟩, ⟨hrun2, es2, htrace2, hes2⟩, -, hframe, hlayer⟩ :=
    sendAlike_tick p hwrites ⟨hcfg, hsep⟩
  refine ⟨t1, t2, es1, es2, hrun1, hrun2, htrace1, htrace2, ?_, ?_, hframe, hlayer⟩
  · rw [hes1.matrixWords_eq edge hclk1 hload1, hes2.matrixWords_eq edge hclk2 hload2]
  · rw [hes1.segmentFrames_eq (sb_of_segmentIdle hidle1), hes2.segmentFrames_eq (sb_of_segmentIdle hidle2)]

end Sys2Proof.Machine
end
